-- ==== Sys2Proof/Word.lean ====
section
/-! DEFINITION. The word types of the block: octets on the streams (00_scope R8) and 32-bit registers (R8). -/

namespace Sys2Proof

/-- One octet of a stream, or one octet of a header (R8: octet width 8). -/
abbrev Octet := BitVec 8

/-- The contents of one register (R8: register width 32). -/
abbrev Word := BitVec 32

end Sys2Proof
end

