-- ==== Sys2Proof/Syntax.lean ====
section
/-! DEFINITION. The instructions: one constructor per row of spec/opcode_table.json. No row has an operand field: the
one operand of a CMD operation is DATA_IN, copied at accept (10_state R26, R29; 30_encoding R73). -/

namespace Sys2Proof

/-- The sixteen rows. The first nine are the operations of 10_state R26 (format CMD: a value written to CMD). The last
seven are the command headers of 30_encoding R76 (format WIRE_HDR: the word SEND_HDR puts on TX); see log 1. -/
inductive Instr where
  | wrU8 | wrU16 | wrU32
  | rdU8 | rdU16 | rdU32
  | buildHdr | sendHdr | checkHdr
  | hdrStatus | hdrGetVoltage | hdrRtcGet | hdrRtcSet | hdrMemRead | hdrMemWrite | hdrExtendedStatus
  deriving DecidableEq, Repr

end Sys2Proof
end

