-- ==== Sys2Proof/Decode.lean ====
section
/-! DEFINITION. Decoding of command words and wire headers, and the encoder (30_encoding R70 to R76). -/

namespace Sys2Proof

/-- Why a word or an octet sequence is no instruction. -/
inductive DecodeError where
  /-- CMD[31:4] is not 0 (R70, field RSV). -/
  | reservedBits
  /-- CLS = 0 and WSEL = 00 (R70). -/
  | reservedWidth
  /-- CLS = 1 and HOP in 011 to 111 (R70). -/
  | reservedFramerOp
  /-- w0 of a header is not 0x2B (R75). -/
  | badPreamble
  /-- w1 of a header is not 0xD4 (R75). -/
  | badPreambleComplement
  /-- w3 of a header is not NOT8(w2) (R75). -/
  | badOpcodeComplement
  /-- w2 of a header is none of the seven opcodes (R76). -/
  | unknownOpcode
  /-- Fewer than the four octets of a header (R75). -/
  | shortHeader
  deriving DecidableEq, Repr

/-- NOT8(x) = x XOR 0xFF (00_scope R9). -/
def not8 (x : Octet) : Octet := x ^^^ 0xFF#8

/-- The octets of a header word by wire index (41_framer R114): `w0` is in bits 31:24. -/
def headerW0 (w : Word) : Octet := w.extractLsb' 24 8
/-- `w1 = W[23:16]` (R114). -/
def headerW1 (w : Word) : Octet := w.extractLsb' 16 8
/-- `w2 = W[15:8]` (R114). -/
def headerW2 (w : Word) : Octet := w.extractLsb' 8 8
/-- `w3 = W[7:0]` (R114). -/
def headerW3 (w : Word) : Octet := w.extractLsb' 0 8

/-- CLS = 0: `{DIR, WSEL[1:0]}` (R70). -/
def decodeCodec (dir wsel1 wsel0 : Bool) : Except DecodeError Instr :=
  match dir, wsel1, wsel0 with
  | false, false, true => .ok .wrU8
  | false, true, false => .ok .wrU16
  | false, true, true => .ok .wrU32
  | true, false, true => .ok .rdU8
  | true, true, false => .ok .rdU16
  | true, true, true => .ok .rdU32
  | _, false, false => .error .reservedWidth

/-- CLS = 1: `HOP[2:0]` (R70). -/
def decodeFramer (hop2 hop1 hop0 : Bool) : Except DecodeError Instr :=
  match hop2, hop1, hop0 with
  | false, false, false => .ok .buildHdr
  | false, false, true => .ok .sendHdr
  | false, true, false => .ok .checkHdr
  | false, true, true => .error .reservedFramerOp
  | true, _, _ => .error .reservedFramerOp

/-- The operation an OP value `v[3:0]` selects (R70, R72). -/
def decodeOp (op : BitVec 4) : Except DecodeError Instr :=
  if op.getLsbD 3 then decodeFramer (op.getLsbD 2) (op.getLsbD 1) (op.getLsbD 0)
  else decodeCodec (op.getLsbD 2) (op.getLsbD 1) (op.getLsbD 0)

/-- The operation a value written to CMD selects, or why it is illegal (R71, R74: total). -/
def decodeCommand (v : Word) : Except DecodeError Instr :=
  if v.extractLsb' 4 28 = 0#28 then decodeOp (v.extractLsb' 0 4) else .error .reservedBits

/-- The command an opcode octet stands for (R76). -/
def decodeOpcode (op : Octet) : Except DecodeError Instr :=
  if op = 0x10 then .ok .hdrStatus
  else if op = 0x13 then .ok .hdrGetVoltage
  else if op = 0x14 then .ok .hdrRtcGet
  else if op = 0x15 then .ok .hdrRtcSet
  else if op = 0x19 then .ok .hdrMemRead
  else if op = 0x1A then .ok .hdrMemWrite
  else if op = 0x40 then .ok .hdrExtendedStatus
  else .error .unknownOpcode

/-- The command a wire header, read as a big-endian word, stands for (R75, R76). -/
def decodeHeader (w : Word) : Except DecodeError Instr :=
  if headerW0 w ≠ 0x2B then .error .badPreamble
  else if headerW1 w ≠ 0xD4 then .error .badPreambleComplement
  else if headerW3 w ≠ not8 (headerW2 w) then .error .badOpcodeComplement
  else decodeOpcode (headerW2 w)

/-- The word of four octets in wire order, the first in bits 31:24 (00_scope R10, R11; 20_memory R53). -/
def wordOfWire (b0 b1 b2 b3 : Octet) : Word := b0 ++ b1 ++ b2 ++ b3

/-- A wire header at the front of an octet sequence, with the octets after it. Total on any octets. -/
def decodeWire : List Octet → Except DecodeError (Instr × List Octet)
  | b0 :: b1 :: b2 :: b3 :: rest => (decodeHeader (wordOfWire b0 b1 b2 b3)).map (·, rest)
  | _ => .error .shortHeader

/-- A word of the opcode table: a command word or a header word. No word is both (R75: w0 is 0x2B, so bits 31:4 are
not 0). A word that is neither is refused for the reason it is no command word. -/
def decode (w : Word) : Except DecodeError Instr :=
  match decodeCommand w with
  | .ok i => .ok i
  | .error e =>
    match decodeHeader w with
    | .ok i => .ok i
    | .error _ => .error e

/-- The decoder on an opcode-table row's bits. A command word is ONE 32-bit register value (R80, 10_state R24), and a
header row is given as its big-endian word, so bit 0 of `w` is bit 0 of the word in both formats. Bits above `nbits`
are 0; a `w` with a bit at or above `nbits`, and a length over 32, is no instruction (log 22). -/
def decodeTableWord (nbits w : Nat) : Option Instr :=
  if nbits ≤ 32 ∧ w < 2 ^ nbits then (decode (BitVec.ofNat 32 w)).toOption else none

/-! ## The encoder -/

/-- A command word: RSV = 0, CLS, SUB (R70). -/
def encodeFields (cls : BitVec 1) (sub : BitVec 3) : Word := 0#28 ++ cls ++ sub

/-- A codec operation's SUB is `{DIR, WSEL}` (R70). -/
def encodeCodec (dir : BitVec 1) (wsel : BitVec 2) : Word := encodeFields 0#1 (dir ++ wsel)

/-- A command header: `{0x2B, 0xD4, op, NOT8(op)}` (R75). -/
def encodeHeader (op : Octet) : Word := wordOfWire 0x2B#8 0xD4#8 op (not8 op)

/-- The word of each row (R70, R72, R76). -/
def encode : Instr → Word
  | .wrU8 => encodeCodec 0 0b01
  | .wrU16 => encodeCodec 0 0b10
  | .wrU32 => encodeCodec 0 0b11
  | .rdU8 => encodeCodec 1 0b01
  | .rdU16 => encodeCodec 1 0b10
  | .rdU32 => encodeCodec 1 0b11
  | .buildHdr => encodeFields 1 0b000
  | .sendHdr => encodeFields 1 0b001
  | .checkHdr => encodeFields 1 0b010
  | .hdrStatus => encodeHeader 0x10
  | .hdrGetVoltage => encodeHeader 0x13
  | .hdrRtcGet => encodeHeader 0x14
  | .hdrRtcSet => encodeHeader 0x15
  | .hdrMemRead => encodeHeader 0x19
  | .hdrMemWrite => encodeHeader 0x1A
  | .hdrExtendedStatus => encodeHeader 0x40

/-- `octets(OP)`: how many octets an operation moves (R72, 20_memory R58); a header row is four octets long (R75). -/
def octets : Instr → Nat
  | .wrU8 | .rdU8 => 1
  | .wrU16 | .rdU16 => 2
  | .wrU32 | .rdU32 | .sendHdr => 4
  | .buildHdr | .checkHdr => 0
  | .hdrStatus | .hdrGetVoltage | .hdrRtcGet | .hdrRtcSet | .hdrMemRead | .hdrMemWrite | .hdrExtendedStatus => 4

end Sys2Proof
end

