-- ==== Sys2Proof/Machine/Operands.lean ====
section
/-! DEFINITION. Operand selection, the octets of a value, and the header function (30_encoding R73, 40_codec R91,
41_framer R111). -/

namespace Sys2Proof.Machine

/-- SENTINEL, the preamble (00_scope R8). Its literal, like every other of the spec, is unaudited (log 17). -/
def sentinel : Octet := 0x2B

/-- SENTINEL_CPL, the inverted preamble (R8). -/
def sentinelCpl : Octet := 0xD4

/-- OPSET, the known command opcodes (R8, 30_encoding R76). -/
def opset : List Octet := [0x10, 0x13, 0x14, 0x15, 0x19, 0x1A, 0x40]

/-- `HDR(op) = {0x2B, 0xD4, op, NOT8(op)}` (41_framer R111), total over all 256 opcodes. -/
def hdr (op : Octet) : Word := wordOfWire sentinel sentinelCpl op (not8 op)

/-- `OPND[7:0]`, the wire opcode of BUILD_HDR and SEND_HDR (30_encoding R73). -/
def opcodeOf (opnd : Word) : Octet := opnd.extractLsb' 0 8

/-- Octet `w_i` of the low `n` octets of `v`: `v[8(n-1-i)+7 : 8(n-1-i)]` (40_codec R91). Big-endian is the order
R10 gives from general knowledge (log 19, PRESUMED by the spec). -/
def octetAt (n i : Nat) (v : Word) : Octet := v.extractLsb' (8 * (n - 1 - i)) 8

/-- The octets of an `n`-octet value in wire order, most significant first (30_encoding R77). -/
def octetsOf (n : Nat) (v : Word) : List Octet := (List.range n).map (octetAt n · v)

/-- `{ACC[23:0], b}` (10_state R30). -/
def shiftIn (acc : Word) (b : Octet) : Word := acc.extractLsb' 0 24 ++ b

/-- The value a read of these octets leaves in ACC, starting from 0 (40_codec R95 to R97). -/
def valueOf (bs : List Octet) : Word := bs.foldl shiftIn 0

/-- `OPND[8n-1:0]` zero-extended (R91): what an `n`-octet write keeps of its operand. -/
def lowOctets (n : Nat) (v : Word) : Word := (v.setWidth (8 * n)).setWidth 32

end Sys2Proof.Machine
end

