-- ==== Sys2Proof/Machine/HostSyntax.lean ====
section
/-! DEFINITION. The host's program syntax (30_encoding R81 to R83): the primitive lines a host program is encoded as, and
the assembler lines that expand to them. -/

namespace Sys2Proof

/-- A line of an encoded host program (R81, R84). `off` is the offset from REG_BASE and `bits` the access width. The
syntax of R81 has only 32-bit accesses; other widths can be written here so that the model can refuse them (R24). -/
inductive HostLine where
  /-- `W <off>, <v32>`: RegWrite(off, v). -/
  | write (off : Int) (bits : Nat) (v : Word)
  /-- `R <off>`: RegRead(off). -/
  | read (off : Int) (bits : Nat)
  /-- `W <off>, r` with r the value of the program's last read (R83, `hdr.check.result`; log 13). -/
  | writeLastRead (off : Int) (bits : Nat)
  /-- `wait`: repeat `R 0x0C` until bit 0 of the value read is 0. -/
  | wait
  /-- `cmd.<x>` of R83, named by the header word it sends (log 1). -/
  | wireHeader (w : Word)
  deriving DecidableEq, Repr

/-- A line as a programmer writes it: a primitive (R81), an operation mnemonic (R82) or a pseudo-instruction (R83).
Immediates are natural numbers, so that the operand checks of R82 can fail. -/
inductive AsmLine where
  | w (off : Int) (v : Nat)
  | r (off : Int)
  | wait
  | wrU8 (imm : Nat) | wrU16 (imm : Nat) | wrU32 (imm : Nat)
  | rdU8 | rdU16 | rdU32
  | hdrBuild (op8 : Nat) | hdrSend (op8 : Nat) | hdrCheck (w32 : Nat)
  | cmdStatus | cmdGetVoltage | cmdRtcGet | cmdRtcSet | cmdMemRead | cmdMemWrite | cmdExtStatus
  | desc (addr32 len32 : Nat)
  | hdrCheckResult | status | clear
  deriving DecidableEq, Repr

/-- The assembler's one error (R82): "An immediate that fails its operand check is a syntax error". -/
inductive AsmError where
  | operandCheck
  deriving DecidableEq, Repr

end Sys2Proof
end

