-- ==== Sys2Proof/Machine/State.lean ====
section
/-! DEFINITION. The state of the machine: the block (10_state R20) and, as plain data, what its environment does and has
seen (00_scope R7, 10_state R48). -/

namespace Sys2Proof.Machine

/-- SEQ (R20, R30). -/
inductive Seq where
  | idle
  | exec
  deriving DecidableEq, Repr

/-- One step's worth of one agent (00_scope R7, 20_memory R63), with the input pins it drives (10_state R21). -/
inductive Turn where
  /-- The host issues the next line of its program. -/
  | host
  /-- The TX sink: tx_ready and tx_err on this edge. -/
  | txSink (ready err : Bool)
  /-- The RX source: rx_valid, rx_err and rx_data on this edge. -/
  | rxSource (valid err : Bool) (data : Octet)
  /-- The block's own internal step, completion (R30). -/
  | block
  /-- rst_n sampled low (70_reset R180). -/
  | reset
  /-- The host makes a register access while rst_n is low (R180: refused). -/
  | hostInReset
  /-- A second host makes a register access (60_exceptions R175: refused). -/
  | secondHost
  deriving DecidableEq, Repr

/-- The whole state. The first nine fields are the block's (R20: "Nothing else is state"); the others are the model's
own record of the environment (logs 2, 7, 8). -/
structure State where
  /-- DATA_IN, the operand register (R27). -/
  dataIn : Word
  /-- RESULT, the result register (R28). -/
  result : Word
  /-- STATUS (R31); its fields are named in Machine/Flags.lean. -/
  status : Word
  /-- SEQ, the sequencer (R30). -/
  seq : Seq
  /-- OP, the latched CMD[3:0] (R29). -/
  op : BitVec 4
  /-- OPND, the copy of DATA_IN made at accept (R29). -/
  opnd : Word
  /-- N, octets the operation transfers (R29). -/
  n : BitVec 3
  /-- K, octets transferred so far (R30). -/
  k : BitVec 3
  /-- ACC, the read accumulator (R30). -/
  acc : Word
  /-- The agent taking the present step, with the pins it drives. -/
  turn : Turn
  /-- The turns still to come. -/
  schedule : List Turn
  /-- The host lines still to be issued. -/
  program : List HostLine
  /-- The octets the TX sink has accepted, oldest first. -/
  txWire : List Octet
  /-- The octets taken from the RX source, oldest first. -/
  rxTaken : List Octet
  /-- The values RegRead has returned, oldest first. -/
  reads : List Word
  deriving DecidableEq, Repr

/-- The machine right after reset: R40 for the block; no program, no turn scheduled and nothing seen (log 8). -/
def State.reset : State where
  dataIn := 0
  result := 0
  status := 0
  seq := .idle
  op := 0
  opnd := 0
  n := 0
  k := 0
  acc := 0
  turn := .host
  schedule := []
  program := []
  txWire := []
  rxTaken := []
  reads := []

/-- Why the machine stops. The block itself never faults (00_scope R13). -/
inductive Fault where
  /-- Raised by the step when no agent has anything to do: no turn is scheduled, no completion is due and the host's
  program is at its end (R13 "stuck", R184). Safe: the model has no step where the hardware waits. -/
  | stuck
  deriving DecidableEq, Repr

/-- What the model gives no meaning to. -/
inductive Refusal where
  /-- Raised by an arm of exec that has no meaning yet; no arm of this model is one. Safe. -/
  | notModelled (mnemonic : String)
  /-- Raised by a register access that is not 32 bits wide at one of the four offsets (10_state R24: "A model must
  refuse anything else"). Safe. -/
  | accessNotAdmitted
  /-- Raised by a register access during reset (70_reset R180: "not admitted (refused)"). Safe. -/
  | accessDuringReset
  /-- Raised by an access of a second host (60_exceptions R175: "must refuse such a configuration"). Safe. -/
  | secondHost
  /-- Raised by a host line that names a header of no command (42_wire_commands R139; log 11). Safe. -/
  | unknownHeaderCommand
  /-- Raised by a host line that writes the last value read when nothing was read (log 13). Safe. -/
  | noValueRead
  deriving DecidableEq, Repr

/-- What a turn comes to: an instruction to run from a state, or an outcome that needs no instruction. -/
inductive Fetched where
  | run (i : Instr) (s : State)
  | done (o : Host.Outcome State Fault Refusal)
  deriving Repr

end Sys2Proof.Machine
end

