-- ==== Sys2Proof/Machine/Flags.lean ====
section
/-! DEFINITION. The fields of STATUS (10_state R31) and the header flag function (41_framer R114). -/

namespace Sys2Proof.Machine

/-- STATUS with one bit replaced. -/
def setBit (st : Word) (i : Nat) (b : Bool) : Word :=
  if b then st ||| (1#32 <<< i) else st &&& ~~~(1#32 <<< i)

/-- BUSY, bit 0 (R31). -/
def State.busy (s : State) : Bool := s.status.getLsbD 0
/-- DONE, bit 1. -/
def State.doneBit (s : State) : Bool := s.status.getLsbD 1
/-- TERR, bit 2. -/
def State.terr (s : State) : Bool := s.status.getLsbD 2
/-- ILL, bit 3. -/
def State.ill (s : State) : Bool := s.status.getLsbD 3
/-- HSENT, bit 8. -/
def State.hsent (s : State) : Bool := s.status.getLsbD 8
/-- HPCPL, bit 9. -/
def State.hpcpl (s : State) : Bool := s.status.getLsbD 9
/-- HCCPL, bit 10. -/
def State.hccpl (s : State) : Bool := s.status.getLsbD 10
/-- HOPK, bit 11. -/
def State.hopk (s : State) : Bool := s.status.getLsbD 11
/-- HWF, bit 12. -/
def State.hwf (s : State) : Bool := s.status.getLsbD 12
/-- HVALID, bit 13. -/
def State.hvalid (s : State) : Bool := s.status.getLsbD 13
/-- DESYNC, bit 16. -/
def State.desync (s : State) : Bool := s.status.getLsbD 16
/-- REJ, bit 17. -/
def State.rej (s : State) : Bool := s.status.getLsbD 17

/-- The six header flags (R31, 41_framer R114). -/
structure HeaderFlags where
  hsent : Bool
  hpcpl : Bool
  hccpl : Bool
  hopk : Bool
  hwf : Bool
  hvalid : Bool
  deriving DecidableEq, Repr

/-- `FLAGS(W)` (41_framer R114). -/
def headerFlags (w : Word) : HeaderFlags :=
  let hsent := headerW0 w == sentinel
  let hpcpl := headerW1 w == not8 (headerW0 w)
  let hccpl := headerW3 w == not8 (headerW2 w)
  { hsent := hsent
    hpcpl := hpcpl
    hccpl := hccpl
    hopk := opset.contains (headerW2 w)
    hwf := hpcpl && hccpl
    hvalid := hsent && hpcpl && hccpl }

/-- STATUS with bits 8 to 13 replaced, all six together (R114, 10_state R35). -/
def setHeaderFlags (st : Word) (f : HeaderFlags) : Word :=
  setBit (setBit (setBit (setBit (setBit (setBit st 8 f.hsent) 9 f.hpcpl) 10 f.hccpl) 11 f.hopk) 12 f.hwf) 13 f.hvalid

/-- `set header flags from W` (R114). -/
def setFlagsFrom (w st : Word) : Word := setHeaderFlags st (headerFlags w)

/-- The outcome bits DONE, TERR and ILL cleared (10_state R29). -/
def clearOutcome (st : Word) : Word := setBit (setBit (setBit st 1 false) 2 false) 3 false

/-- STATUS after accepting a legal command: the outcome bits cleared, BUSY set (R29). -/
def acceptedStatus (st : Word) : Word := setBit (clearOutcome st) 0 true

/-- STATUS after an illegal command: the outcome bits cleared, then ILL set (R29). -/
def illegalStatus (st : Word) : Word := setBit (clearOutcome st) 3 true

/-- STATUS after a rejected command: REJ set (R29). -/
def rejectedStatus (st : Word) : Word := setBit st 17 true

/-- STATUS after a successful completion: DONE set, BUSY cleared (R33). -/
def completedStatus (st : Word) : Word := setBit (setBit st 1 true) 0 false

/-- STATUS after an abort: TERR and DESYNC set, BUSY cleared (60_exceptions R163). -/
def abortedStatus (st : Word) : Word := setBit (setBit (setBit st 2 true) 16 true) 0 false

/-- STATUS after the host writes `v` to it: bits 16 and 17 are write-1-to-clear, every other bit of `v` is ignored
(10_state R38). -/
def clearSticky (v st : Word) : Word :=
  let st1 := if v.getLsbD 16 then setBit st 16 false else st
  if v.getLsbD 17 then setBit st1 17 false else st1

end Sys2Proof.Machine
end

