-- ==== Sys2Proof/Machine/Ops.lean ====
section
/-! DEFINITION. The shared operations: the register port (10_state R22 to R29, R38), the streams (R41 to R43), the abort
(60_exceptions R163), completion (R33), the sequencer (R30) and reset (70_reset R180). -/

namespace Sys2Proof.Machine

/-! ## The register port -/

/-- The registers of the map (10_state R23). -/
inductive Reg where
  | cmd | dataIn | result | status
  deriving DecidableEq, Repr

/-- The register an access reaches, or none if R24 does not admit it. -/
def admitted (off : Int) (bits : Nat) : Option Reg :=
  if bits = 32 then
    if off = 0x00 then some .cmd
    else if off = 0x04 then some .dataIn
    else if off = 0x08 then some .result
    else if off = 0x0C then some .status
    else none
  else none

/-- The value RegRead returns (R25: CMD reads 0; R27, R28, R31). -/
def regValue (r : Reg) (s : State) : Word :=
  match r with
  | .cmd => 0
  | .dataIn => s.dataIn
  | .result => s.result
  | .status => s.status

/-- `RegRead`: no side effect on the block (R39); the host has one more value. -/
def regRead (r : Reg) (s : State) : State := { s with reads := s.reads ++ [regValue r s] }

/-- `RegWrite(0x04, v)` (R27). -/
def writeDataIn (v : Word) (s : State) : State := { s with dataIn := v }

/-- `RegWrite(0x0C, v)` (R38). -/
def writeStatus (v : Word) (s : State) : State := { s with status := clearSticky v s.status }

/-- A command write while BUSY=1 (R29, R37): REJ is set and nothing else changes. -/
def rejectCommand (s : State) : State := { s with status := rejectedStatus s.status }

/-- An illegal command write while BUSY=0 (R29, 60_exceptions R167). -/
def illegalCommand (s : State) : State := { s with status := illegalStatus s.status }

/-- A legal command write while BUSY=0 (R29). -/
def acceptCommand (code : BitVec 4) (n : BitVec 3) (s : State) : State :=
  { s with status := acceptedStatus s.status, op := code, opnd := s.dataIn, n := n, k := 0, acc := 0, seq := .exec }

/-- The host's write of a legal operation to CMD, judged against BUSY as it stands before the write (R29). -/
def commandWrite (code : BitVec 4) (n : BitVec 3) (s : State) : State :=
  if s.busy then rejectCommand s else acceptCommand code n s

/-! ## The streams -/

/-- Outcomes of `TxPut` (00_scope R12). -/
inductive TxAnswer where
  | ok | err | noAnswer
  deriving DecidableEq, Repr

/-- Outcomes of `RxGet` (R12). -/
inductive RxAnswer where
  | ok (b : Octet) | err | noAnswer
  deriving DecidableEq, Repr

/-- The TX sink's answer on its turn: the error wins over the transfer (10_state R41, R43). -/
def txAnswer : Turn → TxAnswer
  | .txSink ready err => if err then .err else if ready then .ok else .noAnswer
  | .host | .rxSource _ _ _ | .block | .reset | .hostInReset | .secondHost => .noAnswer

/-- The RX source's answer on its turn: the error wins over the transfer (R42, R43). -/
def rxAnswer : Turn → RxAnswer
  | .rxSource valid err data => if err then .err else if valid then .ok data else .noAnswer
  | .host | .txSink _ _ | .block | .reset | .hostInReset | .secondHost => .noAnswer

/-- OP is WR_U8, WR_U16, WR_U32 or SEND_HDR (R41). -/
def isTxOp (op : BitVec 4) : Bool := op == 0x1 || op == 0x2 || op == 0x3 || op == 0x9

/-- OP is RD_U8, RD_U16 or RD_U32 (R42). -/
def isRxOp (op : BitVec 4) : Bool := op == 0x5 || op == 0x6 || op == 0x7

/-- The value whose octets a TX operation sends: OPND, or the header for SEND_HDR (40_codec R91). -/
def txWord (s : State) : Word := if s.op = 0x9 then hdr (opcodeOf s.opnd) else s.opnd

/-- The port tx_valid (R41). -/
def txValid (s : State) : Bool := s.seq == .exec && decide (s.k.toNat < s.n.toNat) && isTxOp s.op

/-- The port tx_data: octet `w_K` while tx_valid is 1; the spec gives it no value at other times (R41, log 15). -/
def txData (s : State) : Option Octet :=
  if txValid s then some (octetAt s.n.toNat s.k.toNat (txWord s)) else none

/-- The port rx_ready (R42). -/
def rxReady (s : State) : Bool := s.seq == .exec && decide (s.k.toNat < s.n.toNat) && isRxOp s.op

/-- `raise TransportError` (60_exceptions R163), the block's only trap. There is no handler and no return: the next
accepted command write starts afresh (`acceptCommand`, R166). -/
def raiseTransportError (s : State) : State := { s with status := abortedStatus s.status, seq := .idle }

/-- The TX sink accepts octet `b`: it is on the wire, and K advances (R30, R41). -/
def putOctet (b : Octet) (s : State) : State := { s with txWire := s.txWire ++ [b], k := s.k + 1 }

/-- The RX source supplies octet `b`: it is shifted into ACC, and K advances (R30, R42). -/
def takeOctet (b : Octet) (s : State) : State :=
  { s with acc := shiftIn s.acc b, rxTaken := s.rxTaken ++ [b], k := s.k + 1 }

/-- `TxPut(w_K)` of a value's octets and what follows from its outcome (R30); no answer is no step (R98, R184). -/
def transmit (value : Word) (s : State) : State :=
  match txAnswer s.turn with
  | .ok => putOctet (octetAt s.n.toNat s.k.toNat value) s
  | .err => raiseTransportError s
  | .noAnswer => s

/-- `RxGet()` and what follows from its outcome (R30); no answer is no step. -/
def receive (s : State) : State :=
  match rxAnswer s.turn with
  | .ok b => takeOctet b s
  | .err => raiseTransportError s
  | .noAnswer => s

/-! ## Completion -/

/-- RESULT ← v (R33). -/
def deliver (v : Word) (s : State) : State := { s with result := v }

/-- `set header flags from W` (41_framer R114). -/
def reportHeader (w : Word) (s : State) : State := { s with status := setFlagsFrom w s.status }

/-- The end of `complete()` common to all operations: DONE ← 1, BUSY ← 0, SEQ ← IDLE (R33). -/
def finish (s : State) : State := { s with status := completedStatus s.status, seq := .idle }

/-- `complete()` for WR_*: nothing before the common end (R33). -/
def completeWrite (s : State) : State := finish s

/-- `complete()` for RD_*: RESULT ← ACC (R33). -/
def completeRead (s : State) : State := finish (deliver s.acc s)

/-- `complete()` for BUILD_HDR and SEND_HDR (R33). -/
def completeHeader (s : State) : State :=
  finish (reportHeader (hdr (opcodeOf s.opnd)) (deliver (hdr (opcodeOf s.opnd)) s))

/-- `complete()` for CHECK_HDR (R33). -/
def completeCheck (s : State) : State := finish (reportHeader s.opnd s)

/-! ## The sequencer -/

/-- The block's step under SEQ=EXEC: a transfer while K < N, completion on the block's own turn when K = N (R30). No
other step is enabled; the turn of an agent that has none passes (log 4). -/
def sequencerStep (transfer complete : State → State) (s : State) : State :=
  if s.k.toNat < s.n.toNat then transfer s
  else if s.k = s.n ∧ s.turn = .block then complete s
  else s

/-- One step of an operation: on the host's turn its command write (R29), on any other turn the sequencer's step of it,
if it is the operation that runs (R30; log 16). -/
def runOperation (code : BitVec 4) (n : BitVec 3) (transfer complete : State → State) (s : State) : State :=
  if s.turn = .host then commandWrite code n s
  else if s.seq = .exec ∧ s.op = code then sequencerStep transfer complete s
  else s

/-- The transfer of an operation with no octets: there is none (BUILD_HDR and CHECK_HDR have N = 0; 41_framer R112,
R115). -/
def noTransfer (s : State) : State := s

/-! ## The host's program -/

/-- The first line of `hdr.send <op>` is `W 0x04, op`; its other lines are put before the rest of the program
(30_encoding R82, R83; log 12). -/
def sendHeaderCommand (op : Octet) (s : State) : State :=
  { s with dataIn := op.setWidth 32, program := .write 0x00 32 0x00000009 :: .wait :: s.program }

/-- `wait`: one read of STATUS, and the line stays while bit 0 of the value read is 1 (R81). -/
def pollStatus (s : State) : State :=
  let t := regRead .status s
  if s.busy then { t with program := .wait :: t.program } else t

/-! ## Reset -/

/-- Reset as one step (70_reset R180, R181): every item of R20 takes its reset value; what the streams and the host have
seen stays, and so do the host's program and the schedule. -/
def resetBlock (s : State) : State :=
  { s with dataIn := 0, result := 0, status := 0, seq := .idle, op := 0, opnd := 0, n := 0, k := 0, acc := 0 }

end Sys2Proof.Machine
end

