-- ==== Sys2Proof/Machine/Codec.lean ====
section
/-! DEFINITION. The wire codec operations (40_codec R92 to R97). -/

namespace Sys2Proof.Machine

/-- WR_U8 (R92): CMD = 1, N = 1, sends OPND[7:0]. -/
def execWrU8 (s : State) : Host.Outcome State Fault Refusal :=
  .next (runOperation 0x1 1 (transmit s.opnd) completeWrite s)

/-- WR_U16 (R93): CMD = 2, N = 2, sends OPND[15:8], OPND[7:0]. -/
def execWrU16 (s : State) : Host.Outcome State Fault Refusal :=
  .next (runOperation 0x2 2 (transmit s.opnd) completeWrite s)

/-- WR_U32 (R94): CMD = 3, N = 4, sends OPND[31:24] down to OPND[7:0]. -/
def execWrU32 (s : State) : Host.Outcome State Fault Refusal :=
  .next (runOperation 0x3 4 (transmit s.opnd) completeWrite s)

/-- RD_U8 (R95): CMD = 5, N = 1. -/
def execRdU8 (s : State) : Host.Outcome State Fault Refusal :=
  .next (runOperation 0x5 1 receive completeRead s)

/-- RD_U16 (R96): CMD = 6, N = 2. -/
def execRdU16 (s : State) : Host.Outcome State Fault Refusal :=
  .next (runOperation 0x6 2 receive completeRead s)

/-- RD_U32 (R97): CMD = 7, N = 4. -/
def execRdU32 (s : State) : Host.Outcome State Fault Refusal :=
  .next (runOperation 0x7 4 receive completeRead s)

end Sys2Proof.Machine
end

