-- ==== Sys2Proof/Machine/Framer.lean ====
section
/-! DEFINITION. The packet framer operations (41_framer R112, R113, R115). -/

namespace Sys2Proof.Machine

/-- BUILD_HDR (R112): CMD = 8, N = 0, no stream. -/
def execBuildHdr (s : State) : Host.Outcome State Fault Refusal :=
  .next (runOperation 0x8 0 noTransfer completeHeader s)

/-- SEND_HDR (R113): CMD = 9, N = 4, sends HDR(OPND[7:0]). -/
def execSendHdr (s : State) : Host.Outcome State Fault Refusal :=
  .next (runOperation 0x9 4 (transmit (hdr (opcodeOf s.opnd))) completeHeader s)

/-- CHECK_HDR (R115): CMD = A, N = 0, no stream. -/
def execCheckHdr (s : State) : Host.Outcome State Fault Refusal :=
  .next (runOperation 0xA 0 noTransfer completeCheck s)

end Sys2Proof.Machine
end

