-- ==== Sys2Proof/Machine/WireHeaders.lean ====
section
/-! DEFINITION. The seven command headers (30_encoding R76), each as the host's pseudo-instruction that sends it
(R83: `cmd.<x>` is `hdr.send <opcode>`; logs 1 and 12). -/

namespace Sys2Proof.Machine

/-- HDR.Status: `cmd.status` (42_wire_commands R132). -/
def execHdrStatus (s : State) : Host.Outcome State Fault Refusal := .next (sendHeaderCommand 0x10 s)

/-- HDR.GetVoltage: `cmd.getvoltage` (R134). -/
def execHdrGetVoltage (s : State) : Host.Outcome State Fault Refusal := .next (sendHeaderCommand 0x13 s)

/-- HDR.RtcGet: `cmd.rtcget` (R135). -/
def execHdrRtcGet (s : State) : Host.Outcome State Fault Refusal := .next (sendHeaderCommand 0x14 s)

/-- HDR.RtcSet: `cmd.rtcset` (R136). -/
def execHdrRtcSet (s : State) : Host.Outcome State Fault Refusal := .next (sendHeaderCommand 0x15 s)

/-- HDR.MemRead: `cmd.memread` (R137). -/
def execHdrMemRead (s : State) : Host.Outcome State Fault Refusal := .next (sendHeaderCommand 0x19 s)

/-- HDR.MemWrite: `cmd.memwrite` (R138). -/
def execHdrMemWrite (s : State) : Host.Outcome State Fault Refusal := .next (sendHeaderCommand 0x1A s)

/-- HDR.ExtendedStatus: `cmd.extstatus` (R133). -/
def execHdrExtendedStatus (s : State) : Host.Outcome State Fault Refusal := .next (sendHeaderCommand 0x40 s)

end Sys2Proof.Machine
end

