-- ==== Sys2Proof/Machine/Dispatch.lean ====
section
/-! DEFINITION. One arm per instruction. -/

namespace Sys2Proof.Machine

def exec (i : Instr) (s : State) : Host.Outcome State Fault Refusal :=
  match i with
  | .wrU8 => Sys2Proof.Machine.execWrU8 s
  | .wrU16 => Sys2Proof.Machine.execWrU16 s
  | .wrU32 => Sys2Proof.Machine.execWrU32 s
  | .rdU8 => Sys2Proof.Machine.execRdU8 s
  | .rdU16 => Sys2Proof.Machine.execRdU16 s
  | .rdU32 => Sys2Proof.Machine.execRdU32 s
  | .buildHdr => Sys2Proof.Machine.execBuildHdr s
  | .sendHdr => Sys2Proof.Machine.execSendHdr s
  | .checkHdr => Sys2Proof.Machine.execCheckHdr s
  | .hdrStatus => Sys2Proof.Machine.execHdrStatus s
  | .hdrGetVoltage => Sys2Proof.Machine.execHdrGetVoltage s
  | .hdrRtcGet => Sys2Proof.Machine.execHdrRtcGet s
  | .hdrRtcSet => Sys2Proof.Machine.execHdrRtcSet s
  | .hdrMemRead => Sys2Proof.Machine.execHdrMemRead s
  | .hdrMemWrite => Sys2Proof.Machine.execHdrMemWrite s
  | .hdrExtendedStatus => Sys2Proof.Machine.execHdrExtendedStatus s

end Sys2Proof.Machine
end

