-- ==== Sys2Proof/Machine/Fetch.lean ====
section
/-! DEFINITION. What a turn comes to: which agent moves, and whether its move runs an instruction (a command write, a
step of the running operation, a header command) or is complete in itself (a register access, reset, a refusal). -/

namespace Sys2Proof.Machine

/-- The operation that runs has moved all its octets, so `complete()` is enabled (10_state R30). -/
def completionDue (s : State) : Bool := s.seq == .exec && s.k == s.n && (decodeOp s.op).isOk

/-- Whose turn it is. The schedule says; past its end the block completes if it can, else the host goes on with its
program, and with neither no agent has a step (00_scope R13; log 3). -/
def nextTurn (s : State) : Option Turn :=
  match s.schedule with
  | t :: _ => some t
  | [] => if completionDue s then some .block else if s.program.isEmpty then none else some .host

/-- The state in which turn `t` is taken. -/
def takeTurn (t : Turn) (s : State) : State := { s with turn := t, schedule := s.schedule.tail }

/-- `RegWrite(0x00, v)`: BUSY is judged first, then legality (10_state R29, 60_exceptions R170 items 1 and 2). -/
def fetchCommand (v : Word) (s : State) : Fetched :=
  if s.busy then .done (.next (rejectCommand s))
  else
    match decodeCommand v with
    | .ok i => .run i s
    | .error _ => .done (.next (illegalCommand s))

/-- `RegWrite` (10_state R23, R24). -/
def fetchWrite (off : Int) (bits : Nat) (v : Word) (s : State) : Fetched :=
  match admitted off bits with
  | some .cmd => fetchCommand v s
  | some .dataIn => .done (.next (writeDataIn v s))
  | some .result => .done (.next s)
  | some .status => .done (.next (writeStatus v s))
  | none => .done (.refused .accessNotAdmitted)

/-- One line of the host's program (30_encoding R81, R83), already taken off `program`. -/
def fetchLine (l : HostLine) (s : State) : Fetched :=
  match l with
  | .write off bits v => fetchWrite off bits v s
  | .read off bits =>
    match admitted off bits with
    | some r => .done (.next (regRead r s))
    | none => .done (.refused .accessNotAdmitted)
  | .writeLastRead off bits =>
    match s.reads.getLast? with
    | some v => fetchWrite off bits v s
    | none => .done (.refused .noValueRead)
  | .wait => .done (.next (pollStatus s))
  | .wireHeader w =>
    match decodeHeader w with
    | .ok i => .run i s
    | .error _ => .done (.refused .unknownHeaderCommand)

/-- The host's turn; with no line left the host does nothing. -/
def fetchHost (s : State) : Fetched :=
  match s.program with
  | [] => .done (.next s)
  | l :: rest => fetchLine l { s with program := rest }

/-- The block's, the sink's or the source's turn: a step of the operation OP names. Under SEQ=IDLE the block has no step
and the ports are inactive (10_state R30, R43); with an OP that no run reaches it passes too (log 14). -/
def fetchBlock (s : State) : Fetched :=
  if s.seq = .exec then
    match decodeOp s.op with
    | .ok i => .run i s
    | .error _ => .done (.next s)
  else .done (.next s)

/-- What the turn that `s.turn` names comes to. -/
def fetchTurn (s : State) : Fetched :=
  match s.turn with
  | .host => fetchHost s
  | .txSink _ _ => fetchBlock s
  | .rxSource _ _ _ => fetchBlock s
  | .block => fetchBlock s
  | .reset => .done (.next (resetBlock s))
  | .hostInReset => .done (.refused .accessDuringReset)
  | .secondHost => .done (.refused .secondHost)

/-- The next thing the machine does. -/
def fetch (s : State) : Fetched :=
  match nextTurn s with
  | none => .done (.fault .stuck)
  | some t => fetchTurn (takeTurn t s)

/-- The host line that issues an opcode-table word: a `cmd.<x>` line for a header word, a write to CMD for any other. -/
def lineOfWord (w : Word) : HostLine :=
  match decodeHeader w with
  | .ok _ => .wireHeader w
  | .error _ => .write 0x00 32 w

end Sys2Proof.Machine
end

