-- ==== Sys2Proof/Machine/Step.lean ====
section
/-! DEFINITION. One step of the machine: one step of one agent (00_scope R6, 20_memory R63), untimed (log
20). Events of one clock edge are steps in either order (log 9). -/

namespace Sys2Proof.Machine

def step (s : State) : Host.Outcome State Fault Refusal :=
  match fetch s with
  | .run i s' => exec i s'
  | .done o => o

/-- The instruction word `w` made the host's next line, and the next turn the host's (log 8). -/
def State.withFetchWord (s : State) (nbits w : Nat) : State :=
  { s with
    program := lineOfWord (BitVec.ofNat 32 (w % 2 ^ nbits)) :: s.program
    schedule := .host :: s.schedule }

end Sys2Proof.Machine
end

