-- ==== Sys2Proof/Config.lean ====
section
/-! DEFINITION. The open parameters of the spec (00_scope R8, 10_state R48, 93_implementation_defined). Each is an opaque
constant: no proof can see its value. SENTINEL, SENTINEL_CPL and OPSET are NOT here: R8 fixes them
(Machine/Operands.lean). -/

namespace Sys2Proof

/-- How many bits the bus address has above the four that tell the octets of the register window apart (OPEN; log 6). -/
opaque Config.busAddressBitsAboveWindow : Nat

/-- The width of BUS_PROTOCOL's address, which is the register space's (20_memory R51, OPEN): any width that can hold the
16-byte window (10_state R23, 20_memory R50; log 6). -/
def Config.busAddressWidth : Nat := 4 + Config.busAddressBitsAboveWindow

/-- An address of the register space (20_memory R51). -/
abbrev BusAddress := BitVec Config.busAddressWidth

/-- REG_BASE as one of the places where the 16-byte window lies wholly in the register space (log 6). -/
opaque Config.windowPlace : Fin (2 ^ Config.busAddressWidth - 16 + 1)

/-- REG_BASE, the base address of the register window (R8, OPEN; log 6). -/
def Config.regBase : Nat := Config.windowPlace.val

/-- One register transaction as the bus carries it, at an address of the bus (10_state R22). -/
inductive BusTransaction where
  | write (addr : BusAddress) (bits : Nat) (v : Word)
  | read (addr : BusAddress) (bits : Nat)
  deriving DecidableEq, Repr

/-- BUS_PROTOCOL (R8, R48 and decision D2, OPEN; log 6): the transaction that a stretch of bus signalling carries, if it
carries one. The signalling is the levels of the bus's wires, cycle by cycle. -/
opaque Config.busProtocol : List (List Bool) → Option BusTransaction

/-- DEVICE_MAX_XFER, a limit a device may set on a transfer (93, OPEN; log 18). The block has no limit (R144). -/
opaque Config.deviceMaxXfer : Nat

/-- The offset from REG_BASE at which a bus address falls (10_state R23: "Offsets are in bytes from REG_BASE"). -/
def Config.busOffset (addr : BusAddress) : Int := (addr.toNat : Int) - (Config.regBase : Int)

end Sys2Proof
end

