-- ==== Sys2Proof/Machine/Bus.lean ====
section
/-! DEFINITION. How the register bus reaches the register port: BUS_PROTOCOL and REG_BASE are parameters of it (10_state
R21 to R23, R48; log 6). -/

namespace Sys2Proof.Machine

/-- The bus address of the octet at an offset of the register window (10_state R23, 20_memory R51). -/
def windowAddress (off : Nat) : BusAddress := BitVec.ofNat Config.busAddressWidth (Config.regBase + off)

/-- The host line of a transaction: RegWrite or RegRead at the address's offset from REG_BASE (R22, R23). -/
def lineOfTransaction : BusTransaction → HostLine
  | .write addr bits v => .write (Config.busOffset addr) bits v
  | .read addr bits => .read (Config.busOffset addr) bits

/-- The host lines of a run of bus signalling, in the order the bus carries the transactions (R22, 20_memory R56). -/
def linesOfBus (signalling : List (List (List Bool))) : List HostLine :=
  (signalling.filterMap Config.busProtocol).map lineOfTransaction

end Sys2Proof.Machine
end

