-- ==== Sys2Proof/WellFormed.lean ====
section
/-! DEFINITION. Which terms of the syntax are well formed. -/

namespace Sys2Proof

/-- An instruction has no field, so there is nothing to check: all sixteen are well formed (30_encoding R72, R76). -/
def Instr.wellFormed : Instr → Bool
  | .wrU8 | .wrU16 | .wrU32 | .rdU8 | .rdU16 | .rdU32 | .buildHdr | .sendHdr | .checkHdr => true
  | .hdrStatus | .hdrGetVoltage | .hdrRtcGet | .hdrRtcSet | .hdrMemRead | .hdrMemWrite | .hdrExtendedStatus => true

/-- The four offsets of the register map (10_state R23). -/
def registerOffsets : List Int := [0x00, 0x04, 0x08, 0x0C]

/-- A register access in the form R24 admits: 32 bits wide, at one of the four offsets. -/
def wellFormedAccess (off : Int) (bits : Nat) : Bool := bits == 32 && registerOffsets.contains off

/-- The header words of 30_encoding R76, the only ones a `wireHeader` line may name. -/
def headerWords : List Word :=
  [0x2BD410EF, 0x2BD413EC, 0x2BD414EB, 0x2BD415EA, 0x2BD419E6, 0x2BD41AE5, 0x2BD440BF]

/-- A host line that the register port admits (R24) or that names one of the seven commands (R139). -/
def HostLine.wellFormed : HostLine → Bool
  | .write off bits _ => wellFormedAccess off bits
  | .read off bits => wellFormedAccess off bits
  | .writeLastRead off bits => wellFormedAccess off bits
  | .wait => true
  | .wireHeader w => headerWords.contains w

/-- The operand checks of R82, and the same check on the `v32` of R81 and on the parts of `desc` (R83). -/
def AsmLine.wellFormed : AsmLine → Bool
  | .w _ v => decide (v < 2 ^ 32)
  | .r _ | .wait => true
  | .wrU8 imm => decide (imm < 2 ^ 8)
  | .wrU16 imm => decide (imm < 2 ^ 16)
  | .wrU32 imm => decide (imm < 2 ^ 32)
  | .rdU8 | .rdU16 | .rdU32 => true
  | .hdrBuild op8 => decide (op8 < 2 ^ 8)
  | .hdrSend op8 => decide (op8 < 2 ^ 8)
  | .hdrCheck w32 => decide (w32 < 2 ^ 32)
  | .cmdStatus | .cmdGetVoltage | .cmdRtcGet | .cmdRtcSet | .cmdMemRead | .cmdMemWrite | .cmdExtStatus => true
  | .desc addr32 len32 => decide (addr32 < 2 ^ 32) && decide (len32 < 2 ^ 32)
  | .hdrCheckResult | .status | .clear => true

end Sys2Proof
end

