-- ==== Sys2Proof/Machine/HostProgram.lean ====
section
/-! DEFINITION. The assembler of host programs (30_encoding R81 to R84): each line and its expansion to primitives. -/

namespace Sys2Proof.Machine

/-- `W 0x04, imm ; W 0x00, cmd ; wait`: an operation with an operand (R82). -/
def operationLines (imm : Nat) (cmd : Word) : List HostLine :=
  [.write 0x04 32 (BitVec.ofNat 32 imm), .write 0x00 32 cmd, .wait]

/-- `W 0x00, cmd ; wait`: an operation without one (R82). -/
def readLines (cmd : Word) : List HostLine := [.write 0x00 32 cmd, .wait]

/-- The expansion of a line whose operand checks hold (R82, R83). -/
def expansion : AsmLine → List HostLine
  | .w off v => [.write off 32 (BitVec.ofNat 32 v)]
  | .r off => [.read off 32]
  | .wait => [.wait]
  | .wrU8 imm => operationLines imm 0x00000001
  | .wrU16 imm => operationLines imm 0x00000002
  | .wrU32 imm => operationLines imm 0x00000003
  | .rdU8 => readLines 0x00000005
  | .rdU16 => readLines 0x00000006
  | .rdU32 => readLines 0x00000007
  | .hdrBuild op8 => operationLines op8 0x00000008
  | .hdrSend op8 => operationLines op8 0x00000009
  | .hdrCheck w32 => operationLines w32 0x0000000A
  | .cmdStatus => operationLines 0x10 0x00000009
  | .cmdGetVoltage => operationLines 0x13 0x00000009
  | .cmdRtcGet => operationLines 0x14 0x00000009
  | .cmdRtcSet => operationLines 0x15 0x00000009
  | .cmdMemRead => operationLines 0x19 0x00000009
  | .cmdMemWrite => operationLines 0x1A 0x00000009
  | .cmdExtStatus => operationLines 0x40 0x00000009
  | .desc addr32 len32 =>
    operationLines addr32 0x00000003 ++ operationLines len32 0x00000003 ++ operationLines 0x00 0x00000001
  | .hdrCheckResult => [.read 0x08 32, .writeLastRead 0x04 32, .write 0x00 32 0x0000000A, .wait]
  | .status => [.read 0x0C 32]
  | .clear => [.write 0x0C 32 0x00030000]

/-- One line through the assembler: an immediate that fails its check is a syntax error (R82). -/
def assembleLine (l : AsmLine) : Except AsmError (List HostLine) :=
  if l.wellFormed then .ok (expansion l) else .error .operandCheck

/-- A program through the assembler: its expansion, in order (R84). -/
def assemble : List AsmLine → Except AsmError (List HostLine)
  | [] => .ok []
  | l :: rest =>
    match assembleLine l, assemble rest with
    | .ok a, .ok b => .ok (a ++ b)
    | .error e, _ => .error e
    | .ok _, .error e => .error e

end Sys2Proof.Machine
end

