-- ==== Sys2Proof/Machine/WireCommands.lean ====
section
/-! DEFINITION. The wire command contract of 42_wire_commands as host software: each command's host program, its request
octets, its reply length, and the verdicts on its reply words. The block enforces none of it (00_scope R4, log 18). -/

namespace Sys2Proof.Machine

/-- The seven commands with their request payloads (R132 to R139). -/
inductive WireCommand where
  | status
  | extendedStatus
  | getVoltage
  | rtcGet
  /-- Six octets in the order rtcGet returns them; their meaning is the device's (R135, R136). -/
  | rtcSet (f0 f1 f2 f3 f4 f5 : Octet)
  | memRead (address length : Word)
  | memWrite (address : Word) (bytes : List Octet)
  deriving DecidableEq, Repr

/-- The FIFO target address (R143). -/
def fifoAddress : Word := 0x01810000

/-- `fifoWrite(bytes)`: the whole buffer in one descriptor (R143); of 2^32 or more octets, see log 23. -/
def fifoWrite (bytes : List Octet) : WireCommand := .memWrite fifoAddress bytes

/-- `fifoRead(count)` (R143). -/
def fifoRead (count : Word) : WireCommand := .memRead fifoAddress count

/-- The opcode of a command (30_encoding R76). -/
def commandOpcode : WireCommand → Octet
  | .status => 0x10
  | .getVoltage => 0x13
  | .rtcGet => 0x14
  | .rtcSet _ _ _ _ _ _ => 0x15
  | .memRead _ _ => 0x19
  | .memWrite _ _ => 0x1A
  | .extendedStatus => 0x40

/-- The transfer descriptor: `address:u32, length:u32, flags:u8` with flags = 0 (R140, R141). -/
def descriptorOctets (address length : Word) : List Octet := octetsOf 4 address ++ octetsOf 4 length ++ [0x00]

/-- The octets of a command's request, header first (R130, R132 to R138). For a MemWrite of 2^32 or more octets, whose
length no descriptor can declare (R142), the spec gives no request; the length field here wraps (log 23). -/
def requestOctets (c : WireCommand) : List Octet :=
  octetsOf 4 (hdr (commandOpcode c)) ++
    match c with
    | .status | .extendedStatus | .getVoltage | .rtcGet => []
    | .rtcSet f0 f1 f2 f3 f4 f5 => [f0, f1, f2, f3, f4, f5]
    | .memRead address length => descriptorOctets address length
    | .memWrite address bytes => descriptorOctets address (BitVec.ofNat 32 bytes.length) ++ bytes

/-- How many octets a command's reply has (R132 to R138). -/
def replyOctets : WireCommand → Nat
  | .status => 2
  | .extendedStatus => 4
  | .getVoltage => 8
  | .rtcGet => 6
  | .rtcSet _ _ _ _ _ _ => 0
  | .memRead _ length => length.toNat
  | .memWrite _ _ => 0

/-- `wr.u8` for each octet, in order (40_codec R103, which also lets a host pack octets into wider writes; log 24). -/
def payloadLines (bytes : List Octet) : List AsmLine := bytes.map fun b => .wrU8 b.toNat

/-- One reply field: its RD_* and the host's read of RESULT (R134; log 18). -/
def replyField (rd : AsmLine) : List AsmLine := [rd, .r 0x08]

/-- The host program of a command (R132 to R138). For a MemWrite of 2^32 or more octets the assembler refuses it (log
23). DESIGN CHOICE (log 24): R137 and 40_codec R103 let a host read a MemRead payload by `rd.u8` or by groups of RD_U32
and RD_U16, and R103 lets it pack any payload it writes into wider writes; of these programs this one goes octet by
octet. -/
def commandProgram : WireCommand → List AsmLine
  | .status => .cmdStatus :: replyField .rdU16
  | .extendedStatus => .cmdExtStatus :: replyField .rdU32
  | .getVoltage => .cmdGetVoltage :: (List.replicate 4 (replyField .rdU16)).flatten
  | .rtcGet => .cmdRtcGet :: (List.replicate 6 (replyField .rdU8)).flatten
  | .rtcSet f0 f1 f2 f3 f4 f5 => .cmdRtcSet :: payloadLines [f0, f1, f2, f3, f4, f5]
  | .memRead address length =>
    .cmdMemRead :: .desc address.toNat length.toNat :: (List.replicate length.toNat (replyField .rdU8)).flatten
  | .memWrite address bytes => .cmdMemWrite :: .desc address.toNat bytes.length :: payloadLines bytes

/-- The verdict on a Status word: trusted iff `s[15:8] == 0xA5` (R150). -/
def statusTrusted (s : BitVec 16) : Bool := s.extractLsb' 8 8 == 0xA5#8

/-- The device an extended status names (R152). -/
inductive Device where
  | pro | core | unknown
  deriving DecidableEq, Repr

/-- `trusted` of an extended status: the check octet and the protocol id (R151, R152). -/
def extendedTrusted (e : Word) : Bool := e.extractLsb' 24 8 == 0x5A#8 && e.extractLsb' 16 8 == 0x05#8

/-- `device` of an extended status, looked up whether or not it is trusted (R152). -/
def extendedDevice (e : Word) : Device :=
  if e.extractLsb' 8 8 = 0x18#8 then .pro else if e.extractLsb' 8 8 = 0x25#8 then .core else .unknown

end Sys2Proof.Machine
end

