-- ==== Sys2Proof/Safety.lean ====
section
/-! DEFINITION. What claims about the machine are stated in terms of: its invariant, and the runs of an environment that
never errs. -/

namespace Sys2Proof.Safety

open Sys2Proof.Machine

/-- DONE, TERR and ILL (10_state R34): how many of them are 1. -/
def outcomeCount (s : State) : Nat := s.doneBit.toNat + s.terr.toNat + s.ill.toNat

/-- The invariant of the block, of every state a run from reset reaches. -/
structure Inv (s : State) : Prop where
  /-- `STATUS.BUSY == 1` exactly when `SEQ == EXEC` (R32). -/
  busy_iff_exec : s.busy = true ↔ s.seq = .exec
  /-- At most one of DONE, TERR and ILL is 1 (R34). -/
  one_outcome : outcomeCount s ≤ 1
  /-- While BUSY=1, all three are 0 (R34). -/
  no_outcome_while_busy : s.busy = true → outcomeCount s = 0
  /-- Bits 7:4, 15:14 and 31:18 read 0 (R31). -/
  reserved_zero : s.status &&& 0xFFFCC0F0#32 = 0#32
  /-- The header flags agree with each other (41_framer R114). -/
  hwf_eq : s.hwf = (s.hpcpl && s.hccpl)
  /-- HVALID is HSENT and HWF (R114). -/
  hvalid_eq : s.hvalid = (s.hsent && s.hwf)
  /-- While an operation runs, OP is one of the nine and N is its number of octets (R29). -/
  running_op : s.seq = .exec → ∃ i, decodeOp s.op = .ok i ∧ s.n.toNat = octets i
  /-- `0 <= K <= N <= 4` (R20, R45). -/
  k_le_n : s.k.toNat ≤ s.n.toNat
  /-- N is at most 4 (R45). -/
  n_le_four : s.n.toNat ≤ 4

/-- A state in which the host's next turn issues `line`: what a program that is about to run it looks like. -/
def AboutToIssue (line : HostLine) (rest : List HostLine) (s : State) : Prop :=
  s.program = line :: rest ∧ nextTurn s = some .host

/-- The state in which the host's turn is taken and its line is off the program. -/
def issued (rest : List HostLine) (s : State) : State :=
  { s with turn := .host, schedule := s.schedule.tail, program := rest }

/-- The turns in which a sink takes `n` octets one after another. -/
def readySink (n : Nat) : List Turn := List.replicate n (.txSink true false)

/-- The turns in which a source supplies these octets one after another. -/
def supplyingSource (bs : List Octet) : List Turn := bs.map fun b => .rxSource true false b

/-- `k` steps of the machine (Host/Core.lean). -/
def runs (k : Nat) (s : State) : Host.Outcome State Fault Refusal := Sys2Proof.core.run k s

/-- The turns of the streams and of the block itself: those whose step is a step of the running operation. -/
def IsBlockTurn : Turn → Prop
  | .txSink _ _ | .rxSource _ _ _ | .block => True
  | .host | .reset | .hostInReset | .secondHost => False

/-- A state in which the host's next turn issues RegWrite(off, v), as a plain line or as a write of the last value
read. -/
def AboutToWrite (off : Int) (v : Word) (rest : List HostLine) (s : State) : Prop :=
  AboutToIssue (.write off 32 v) rest s ∨
    (AboutToIssue (.writeLastRead off 32) rest s ∧ s.reads.getLast? = some v)

/-- The host's next line is RegWrite(off, v), in either form. -/
def HostWrites (off : Int) (v : Word) (s : State) : Prop :=
  nextTurn s = some .host ∧
    ∃ rest, s.program = .write off 32 v :: rest ∨
      (s.program = .writeLastRead off 32 :: rest ∧ s.reads.getLast? = some v)

/-- The next step is `complete()` of the running operation (10_state R30). -/
def Completes (s : State) : Prop := s.seq = .exec ∧ s.k = s.n ∧ nextTurn s = some .block

/-- The next step is a stream error on the stream the block waits on (10_state R43). -/
def Aborts (s : State) : Prop :=
  (txValid s = true ∧ ∃ ready, nextTurn s = some (.txSink ready true)) ∨
    (rxReady s = true ∧ ∃ valid data, nextTurn s = some (.rxSource valid true data))

/-- An operation has been started or has left an outcome: BUSY, or one of DONE, TERR and ILL (10_state R34). -/
def Started (s : State) : Prop := s.busy = true ∨ outcomeCount s = 1

/-- The assembler lines that send octets and do nothing else on the streams. -/
def isSending : AsmLine → Bool
  | .wrU8 _ | .wrU16 _ | .wrU32 _ | .hdrSend _ | .desc _ _ => true
  | .cmdStatus | .cmdGetVoltage | .cmdRtcGet | .cmdRtcSet | .cmdMemRead | .cmdMemWrite | .cmdExtStatus => true
  | .w _ _ | .r _ | .wait | .rdU8 | .rdU16 | .rdU32 | .hdrBuild _ | .hdrCheck _ | .hdrCheckResult | .status | .clear =>
    false

/-- The octets a sending line puts on the wire, in order (30_encoding R77, R82, R83). -/
def lineOctets : AsmLine → List Octet
  | .wrU8 imm => octetsOf 1 (BitVec.ofNat 32 imm)
  | .wrU16 imm => octetsOf 2 (BitVec.ofNat 32 imm)
  | .wrU32 imm => octetsOf 4 (BitVec.ofNat 32 imm)
  | .hdrSend op8 => octetsOf 4 (hdr (BitVec.ofNat 8 op8))
  | .desc addr32 len32 => octetsOf 4 (BitVec.ofNat 32 addr32) ++ octetsOf 4 (BitVec.ofNat 32 len32) ++ [0x00]
  | .cmdStatus => [0x2B, 0xD4, 0x10, 0xEF]
  | .cmdGetVoltage => [0x2B, 0xD4, 0x13, 0xEC]
  | .cmdRtcGet => [0x2B, 0xD4, 0x14, 0xEB]
  | .cmdRtcSet => [0x2B, 0xD4, 0x15, 0xEA]
  | .cmdMemRead => [0x2B, 0xD4, 0x19, 0xE6]
  | .cmdMemWrite => [0x2B, 0xD4, 0x1A, 0xE5]
  | .cmdExtStatus => [0x2B, 0xD4, 0x40, 0xBF]
  | .w _ _ | .r _ | .wait | .rdU8 | .rdU16 | .rdU32 | .hdrBuild _ | .hdrCheck _ | .hdrCheckResult | .status | .clear => []

/-- The turns of one sending operation of `n` octets with a sink that is always ready: the two host writes, the octets,
the completion, and one read of STATUS. -/
def operationTurns (n : Nat) : List Turn := .host :: .host :: (readySink n ++ [.block, .host])

/-- The turns of a sending line with a sink that is always ready. -/
def lineTurns : AsmLine → List Turn
  | .wrU8 _ => operationTurns 1
  | .wrU16 _ => operationTurns 2
  | .wrU32 _ | .hdrSend _ => operationTurns 4
  | .cmdStatus | .cmdGetVoltage | .cmdRtcGet | .cmdRtcSet | .cmdMemRead | .cmdMemWrite | .cmdExtStatus => operationTurns 4
  | .desc _ _ => operationTurns 4 ++ operationTurns 4 ++ operationTurns 1
  | .w _ _ | .r _ | .wait | .rdU8 | .rdU16 | .rdU32 | .hdrBuild _ | .hdrCheck _ | .hdrCheckResult | .status | .clear => []

/-- A transfer length the device takes; the block has no limit (42_wire_commands R144; log 18). -/
def withinDeviceLimit (length : Nat) : Prop := length ≤ Config.deviceMaxXfer

end Sys2Proof.Safety
end

