-- ==== Sys2Proof/Certificates/Slice0/Obligations.lean ====
section
/-! DEFINITION. The statements about the machine. Each docstring names the rule of spec/ it formalises. -/

open Sys2Proof Sys2Proof.Machine Sys2Proof.Safety

/-! ## Reset -/

/-- R40, R180: a reset step gives every item of R20 its reset value, whatever the state was, and both stream ports are
inactive then; State.reset is such a state; a register access during reset is refused. -/
def Obligations.ResetClearsTheBlock : Prop :=
  (∀ s : State, nextTurn s = some .reset →
    ∃ t, step s = .next t ∧
      t.dataIn = 0 ∧ t.result = 0 ∧ t.status = 0 ∧ t.seq = .idle ∧ t.op = 0 ∧ t.opnd = 0 ∧ t.n = 0 ∧ t.k = 0 ∧ t.acc = 0 ∧
      txValid t = false ∧ rxReady t = false) ∧
  (∀ t : State, t = State.reset →
    t.dataIn = 0 ∧ t.result = 0 ∧ t.status = 0 ∧ t.seq = .idle ∧ t.op = 0 ∧ t.opnd = 0 ∧ t.n = 0 ∧ t.k = 0 ∧ t.acc = 0 ∧
    txValid t = false ∧ rxReady t = false) ∧
  (∀ s : State, nextTurn s = some .hostInReset → step s = .refused .accessDuringReset)

/-- The frame of a reset step on the model's own fields (logs 7 and 8, the model's choice): what the streams and the host
have seen, the host's program and the rest of the schedule stay. -/
def Obligations.ResetKeepsTheEnvironment : Prop :=
  ∀ s : State, nextTurn s = some .reset →
    ∃ t, step s = .next t ∧ t.txWire = s.txWire ∧ t.rxTaken = s.rxTaken ∧ t.reads = s.reads ∧ t.program = s.program ∧
      t.turn = .reset ∧ t.schedule = s.schedule.tail

/-- R181: a reset in the middle of an operation leaves no outcome bit and no DESYNC. -/
def Obligations.ResetEndsAnOperationWithoutOutcome : Prop :=
  ∀ s : State, s.seq = .exec → nextTurn s = some .reset →
    ∃ t, step s = .next t ∧ t.seq = .idle ∧ t.busy = false ∧ t.doneBit = false ∧ t.terr = false ∧ t.ill = false ∧
      t.desync = false ∧ t.txWire = s.txWire ∧ t.rxTaken = s.rxTaken

/-! ## The register port -/

/-- R24: an access is admitted exactly if it is 32 bits wide at one of the four offsets; every other one is refused. -/
def Obligations.OnlyAlignedWordAccessesAreAdmitted : Prop :=
  ∀ (s : State) (off : Int) (bits : Nat) (rest : List HostLine),
    ((bits = 32 ∧ off ∈ [0x00, 0x04, 0x08, 0x0C]) →
      (∀ v, AboutToIssue (.write off bits v) rest s → ∃ t, step s = .next t) ∧
      (AboutToIssue (.read off bits) rest s → ∃ t, step s = .next t) ∧
      (AboutToIssue (.writeLastRead off bits) rest s → s.reads ≠ [] → ∃ t, step s = .next t)) ∧
    (¬ (bits = 32 ∧ off ∈ [0x00, 0x04, 0x08, 0x0C]) →
      (∀ v, AboutToIssue (.write off bits v) rest s → step s = .refused .accessNotAdmitted) ∧
      (AboutToIssue (.read off bits) rest s → step s = .refused .accessNotAdmitted) ∧
      (AboutToIssue (.writeLastRead off bits) rest s → s.reads ≠ [] → step s = .refused .accessNotAdmitted))

/-- R23, R24 and R51 at bus addresses, whatever BUS_PROTOCOL's address width and REG_BASE are (R48; their form, and that
the window lies in the address space, is log 6): the four registers have four different addresses, REG_BASE + 0, 4, 8 and
12 without wrapping; an access there reaches that register; an access at any other address of the space, or of another
width, is refused. -/
def Obligations.BusAddressesCountFromRegBase : Prop :=
  (∀ off < 16, (windowAddress off).toNat = Config.regBase + off) ∧
  ∀ (s : State) (addr : BusAddress) (bits : Nat) (v : Word) (rest : List HostLine),
    (AboutToIssue (lineOfTransaction (.read addr bits)) rest s →
      (bits = 32 → addr = windowAddress 0 → step s = .next { issued rest s with reads := s.reads ++ [0] }) ∧
      (bits = 32 → addr = windowAddress 4 → step s = .next { issued rest s with reads := s.reads ++ [s.dataIn] }) ∧
      (bits = 32 → addr = windowAddress 8 → step s = .next { issued rest s with reads := s.reads ++ [s.result] }) ∧
      (bits = 32 → addr = windowAddress 12 → step s = .next { issued rest s with reads := s.reads ++ [s.status] })) ∧
    (AboutToIssue (lineOfTransaction (.write addr bits v)) rest s →
      (bits = 32 → addr = windowAddress 0 → s.busy = true →
        step s = .next { issued rest s with status := setBit s.status 17 true }) ∧
      (bits = 32 → addr = windowAddress 0 → s.busy = false → ∀ i, decodeCommand v = .ok i →
        step s = exec i (issued rest s)) ∧
      (bits = 32 → addr = windowAddress 0 → s.busy = false → (∀ i, decodeCommand v ≠ .ok i) →
        step s = .next { issued rest s with
          status := setBit (setBit (setBit (setBit s.status 1 false) 2 false) 3 false) 3 true }) ∧
      (bits = 32 → addr = windowAddress 4 → step s = .next { issued rest s with dataIn := v }) ∧
      (bits = 32 → addr = windowAddress 8 → step s = .next (issued rest s)) ∧
      (bits = 32 → addr = windowAddress 12 →
        ∃ st, step s = .next { issued rest s with status := st } ∧
          ∀ j, st.getLsbD j =
            if j = 16 ∧ v.getLsbD 16 = true then false
            else if j = 17 ∧ v.getLsbD 17 = true then false
            else s.status.getLsbD j)) ∧
    (¬ (bits = 32 ∧ addr ∈ [windowAddress 0, windowAddress 4, windowAddress 8, windowAddress 12]) →
      AboutToIssue (lineOfTransaction (.read addr bits)) rest s ∨
        AboutToIssue (lineOfTransaction (.write addr bits v)) rest s →
      step s = .refused .accessNotAdmitted)

/-- R175, with the choice of log 10: an access by a second host is refused, on the turn it is made. -/
def Obligations.SecondHostIsRefused : Prop :=
  ∀ s : State, nextTurn s = some .secondHost → step s = .refused .secondHost

/-- R39, R25, R27, R28, R31: a read gives the host the register's value, CMD reading 0, and changes nothing else. -/
def Obligations.ReadsHaveNoSideEffect : Prop :=
  ∀ (s : State) (rest : List HostLine),
    (AboutToIssue (.read 0x00 32) rest s → step s = .next { issued rest s with reads := s.reads ++ [0] }) ∧
    (AboutToIssue (.read 0x04 32) rest s → step s = .next { issued rest s with reads := s.reads ++ [s.dataIn] }) ∧
    (AboutToIssue (.read 0x08 32) rest s → step s = .next { issued rest s with reads := s.reads ++ [s.result] }) ∧
    (AboutToIssue (.read 0x0C 32) rest s → step s = .next { issued rest s with reads := s.reads ++ [s.status] })

/-- R29: what a write to CMD does, by BUSY as it stands before and by whether the word is legal. -/
def Obligations.CommandWriteIsJudgedByBusyThenLegality : Prop :=
  ∀ (s : State) (v : Word) (rest : List HostLine), AboutToWrite 0x00 v rest s →
    (s.busy = true → step s = .next { issued rest s with status := setBit s.status 17 true }) ∧
    (s.busy = false → (∀ i, decodeCommand v ≠ .ok i) →
      step s = .next { issued rest s with
        status := setBit (setBit (setBit (setBit s.status 1 false) 2 false) 3 false) 3 true }) ∧
    (s.busy = false → ∀ i, decodeCommand v = .ok i →
      step s = .next { issued rest s with
        status := setBit (setBit (setBit (setBit s.status 1 false) 2 false) 3 false) 0 true
        op := v.extractLsb' 0 4
        opnd := s.dataIn
        n := BitVec.ofNat 3 (octets i)
        k := 0
        acc := 0
        seq := .exec })

/-- R27: DATA_IN stores what is written at any time, and no step of a running operation reads it. -/
def Obligations.DataInIsPlainAndUnreadByARunningOperation : Prop :=
  (∀ (s : State) (v : Word) (rest : List HostLine), AboutToWrite 0x04 v rest s →
    step s = .next { issued rest s with dataIn := v }) ∧
  (∀ (s : State) (rest : List HostLine), AboutToIssue (.read 0x04 32) rest s →
    step s = .next { issued rest s with reads := s.reads ++ [s.dataIn] }) ∧
  (∀ (s t : State) (turn : Turn) (v : Word), s.seq = .exec → nextTurn s = some turn → IsBlockTurn turn →
    step s = .next t → step { s with dataIn := v } = .next { t with dataIn := v })

/-- R28: RESULT ignores writes, a read of it has no side effect, and only the completion of RD_*, BUILD_HDR or SEND_HDR,
or reset, changes it. -/
def Obligations.ResultIsWrittenOnlyByCompletion : Prop :=
  (∀ (s : State) (v : Word) (rest : List HostLine), AboutToWrite 0x08 v rest s →
    step s = .next (issued rest s)) ∧
  (∀ (s : State) (rest : List HostLine), AboutToIssue (.read 0x08 32) rest s →
    step s = .next { issued rest s with reads := s.reads ++ [s.result] }) ∧
  (∀ s t : State, step s = .next t → t.result ≠ s.result →
    nextTurn s = some .reset ∨
    (Completes s ∧ ∃ i, decodeOp s.op = .ok i ∧ i ∈ [.rdU8, .rdU16, .rdU32, .buildHdr, .sendHdr]))

/-- R38, R31: a write to STATUS clears DESYNC and REJ where it writes 1, leaves every other bit, and changes nothing
else. -/
def Obligations.StatusWriteClearsOnlyStickyBits : Prop :=
  ∀ (s : State) (v : Word) (rest : List HostLine), AboutToWrite 0x0C v rest s →
    ∃ st, step s = .next { issued rest s with status := st } ∧
      ∀ j, st.getLsbD j =
        if j = 16 ∧ v.getLsbD 16 = true then false
        else if j = 17 ∧ v.getLsbD 17 = true then false
        else s.status.getLsbD j

/-! ## Decoding -/

/-- R72, R76: the words of the opcode table, written out from the spec, decode to their rows; some others do not. -/
def Obligations.TableWordsDecodeToTheirRows : Prop :=
  decodeTableWord 32 0x00000001 = some .wrU8 ∧ decodeTableWord 32 0x00000002 = some .wrU16 ∧
  decodeTableWord 32 0x00000003 = some .wrU32 ∧ decodeTableWord 32 0x00000005 = some .rdU8 ∧
  decodeTableWord 32 0x00000006 = some .rdU16 ∧ decodeTableWord 32 0x00000007 = some .rdU32 ∧
  decodeTableWord 32 0x00000008 = some .buildHdr ∧ decodeTableWord 32 0x00000009 = some .sendHdr ∧
  decodeTableWord 32 0x0000000A = some .checkHdr ∧ decodeTableWord 32 0x2BD410EF = some .hdrStatus ∧
  decodeTableWord 32 0x2BD413EC = some .hdrGetVoltage ∧ decodeTableWord 32 0x2BD414EB = some .hdrRtcGet ∧
  decodeTableWord 32 0x2BD415EA = some .hdrRtcSet ∧ decodeTableWord 32 0x2BD419E6 = some .hdrMemRead ∧
  decodeTableWord 32 0x2BD41AE5 = some .hdrMemWrite ∧ decodeTableWord 32 0x2BD440BF = some .hdrExtendedStatus ∧
  decodeTableWord 32 0x00000004 = none ∧ decodeTableWord 32 0x00000011 = none ∧ decodeTableWord 32 0x2BD410EE = none

/-- R74, R70 to R76: the decoder reads an instruction from a word exactly if the word is the instruction's. -/
def Obligations.DecodeIsTheInverseOfEncode : Prop :=
  (∀ (w : Word) (i : Instr), decode w = .ok i ↔ w = encode i) ∧
  (∀ (b0 b1 b2 b3 : Octet) (rest : List Octet) (i : Instr),
    decodeWire (b0 :: b1 :: b2 :: b3 :: rest) = .ok (i, rest) ↔
      encode i = b0 ++ b1 ++ b2 ++ b3 ∧ ∃ op ∈ [0x10#8, 0x13#8, 0x14#8, 0x15#8, 0x19#8, 0x1A#8, 0x40#8],
        b0 = 0x2B ∧ b1 = 0xD4 ∧ b2 = op ∧ b3 = ~~~op)

/-- R74 with R71 and R72: every word written to CMD is exactly one of the nine operations or is illegal. -/
def Obligations.EveryCommandWordIsOneOperationOrIllegal : Prop :=
  ∀ v : Word,
    ((v.extractLsb' 4 28 = 0#28 ∧ v.extractLsb' 0 4 ∈ [0x1#4, 0x2#4, 0x3#4, 0x5#4, 0x6#4, 0x7#4, 0x8#4, 0x9#4, 0xA#4]) ↔
      ∃ i, decodeCommand v = .ok i) ∧
    (∀ i, decodeCommand v = .ok i →
      (i, v, octets i) ∈ [(Instr.wrU8, 0x1#32, 1), (.wrU16, 0x2#32, 2), (.wrU32, 0x3#32, 4), (.rdU8, 0x5#32, 1),
        (.rdU16, 0x6#32, 2), (.rdU32, 0x7#32, 4), (.buildHdr, 0x8#32, 0), (.sendHdr, 0x9#32, 4), (.checkHdr, 0xA#32, 0)])

/-! ## A step runs the decoded instruction -/

/-- The model's split of step and exec (log 16, DESIGN CHOICE; no rule says it): a legal word written to an idle block, a
header line (that header rows are host lines is log 1, DEDUCED), and a turn of the running operation are each exec of the
decoded instruction, in the state in which the turn is taken. -/
def Obligations.StepRunsTheDecodedInstruction : Prop :=
  (∀ (s : State) (v : Word) (rest : List HostLine) (i : Instr), AboutToWrite 0x00 v rest s →
    s.busy = false → decodeCommand v = .ok i → step s = exec i (issued rest s)) ∧
  (∀ (s : State) (w : Word) (rest : List HostLine) (i : Instr), AboutToIssue (.wireHeader w) rest s →
    decodeHeader w = .ok i → step s = exec i (issued rest s)) ∧
  (∀ (s : State) (t : Turn) (i : Instr), nextTurn s = some t → IsBlockTurn t → s.seq = .exec → decodeOp s.op = .ok i →
    step s = exec i { s with turn := t, schedule := s.schedule.tail })

/-- A table word placed by withFetchWord in an idle state is what the next step runs. -/
def Obligations.FetchWordIsTheNextInstruction : Prop :=
  ∀ (s : State) (nbits w : Nat) (i : Instr), s.busy = false → decodeTableWord nbits w = some i →
    step (s.withFetchWord nbits w) = exec i { s with turn := .host }

/-! ## The operations, one rule each -/

/-- R92: WR_U8. -/
def Obligations.WrU8SendsTheLowOctet : Prop :=
  ∀ s : State,
    encode .wrU8 = 0x00000001 ∧ octets .wrU8 = 1 ∧
    (s.turn = .host → s.busy = false → exec .wrU8 s = .next { s with
      status := setBit (setBit (setBit (setBit s.status 1 false) 2 false) 3 false) 0 true
      op := 0x1, opnd := s.dataIn, n := 1, k := 0, acc := 0, seq := .exec }) ∧
    (s.seq = .exec → s.op = 0x1 → s.n = 1 →
      (s.k = 0 → s.turn = .txSink true false →
        exec .wrU8 s = .next { s with txWire := s.txWire ++ [s.opnd.extractLsb' 0 8], k := 1 }) ∧
      (s.k = 0 → s.turn = .txSink false false → exec .wrU8 s = .next s) ∧
      (s.k = 0 → ∀ ready, s.turn = .txSink ready true → exec .wrU8 s = .next { s with
        status := setBit (setBit (setBit s.status 2 true) 16 true) 0 false, seq := .idle }) ∧
      (s.k = 1 → s.turn = .block → exec .wrU8 s = .next { s with
        status := setBit (setBit s.status 1 true) 0 false, seq := .idle }))

/-- R93: WR_U16. -/
def Obligations.WrU16SendsTwoOctetsHighFirst : Prop :=
  ∀ s : State,
    encode .wrU16 = 0x00000002 ∧ octets .wrU16 = 2 ∧
    (s.turn = .host → s.busy = false → exec .wrU16 s = .next { s with
      status := setBit (setBit (setBit (setBit s.status 1 false) 2 false) 3 false) 0 true
      op := 0x2, opnd := s.dataIn, n := 2, k := 0, acc := 0, seq := .exec }) ∧
    (s.seq = .exec → s.op = 0x2 → s.n = 2 →
      (s.k = 0 → s.turn = .txSink true false →
        exec .wrU16 s = .next { s with txWire := s.txWire ++ [s.opnd.extractLsb' 8 8], k := 1 }) ∧
      (s.k = 1 → s.turn = .txSink true false →
        exec .wrU16 s = .next { s with txWire := s.txWire ++ [s.opnd.extractLsb' 0 8], k := 2 }) ∧
      (s.k = 0 ∨ s.k = 1 → s.turn = .txSink false false → exec .wrU16 s = .next s) ∧
      (s.k = 0 ∨ s.k = 1 → ∀ ready, s.turn = .txSink ready true → exec .wrU16 s = .next { s with
        status := setBit (setBit (setBit s.status 2 true) 16 true) 0 false, seq := .idle }) ∧
      (s.k = 2 → s.turn = .block → exec .wrU16 s = .next { s with
        status := setBit (setBit s.status 1 true) 0 false, seq := .idle }))

/-- R94: WR_U32. -/
def Obligations.WrU32SendsFourOctetsHighFirst : Prop :=
  ∀ s : State,
    encode .wrU32 = 0x00000003 ∧ octets .wrU32 = 4 ∧
    (s.turn = .host → s.busy = false → exec .wrU32 s = .next { s with
      status := setBit (setBit (setBit (setBit s.status 1 false) 2 false) 3 false) 0 true
      op := 0x3, opnd := s.dataIn, n := 4, k := 0, acc := 0, seq := .exec }) ∧
    (s.seq = .exec → s.op = 0x3 → s.n = 4 →
      (∀ j < 4, s.k = BitVec.ofNat 3 j →
        (s.turn = .txSink true false → exec .wrU32 s = .next { s with
          txWire := s.txWire ++ [s.opnd.extractLsb' (24 - 8 * j) 8], k := BitVec.ofNat 3 (j + 1) }) ∧
        (s.turn = .txSink false false → exec .wrU32 s = .next s) ∧
        (∀ ready, s.turn = .txSink ready true → exec .wrU32 s = .next { s with
          status := setBit (setBit (setBit s.status 2 true) 16 true) 0 false, seq := .idle })) ∧
      (s.k = 4 → s.turn = .block → exec .wrU32 s = .next { s with
        status := setBit (setBit s.status 1 true) 0 false, seq := .idle }))

/-- R95: RD_U8. -/
def Obligations.RdU8TakesOneOctet : Prop :=
  ∀ s : State,
    encode .rdU8 = 0x00000005 ∧ octets .rdU8 = 1 ∧
    (s.turn = .host → s.busy = false → exec .rdU8 s = .next { s with
      status := setBit (setBit (setBit (setBit s.status 1 false) 2 false) 3 false) 0 true
      op := 0x5, opnd := s.dataIn, n := 1, k := 0, acc := 0, seq := .exec }) ∧
    (s.seq = .exec → s.op = 0x5 → s.n = 1 →
      (s.k = 0 → ∀ b, s.turn = .rxSource true false b → exec .rdU8 s = .next { s with
        acc := s.acc.extractLsb' 0 24 ++ b, rxTaken := s.rxTaken ++ [b], k := 1 }) ∧
      (s.k = 0 → ∀ b, s.turn = .rxSource false false b → exec .rdU8 s = .next s) ∧
      (s.k = 0 → ∀ valid b, s.turn = .rxSource valid true b → exec .rdU8 s = .next { s with
        status := setBit (setBit (setBit s.status 2 true) 16 true) 0 false, seq := .idle }) ∧
      (s.k = 1 → s.turn = .block → exec .rdU8 s = .next { s with
        result := s.acc, status := setBit (setBit s.status 1 true) 0 false, seq := .idle })) ∧
    (∀ b : Octet, (0 : Word).extractLsb' 0 24 ++ b = 0#24 ++ b)

/-- R96: RD_U16. -/
def Obligations.RdU16TakesTwoOctetsHighFirst : Prop :=
  ∀ s : State,
    encode .rdU16 = 0x00000006 ∧ octets .rdU16 = 2 ∧
    (s.turn = .host → s.busy = false → exec .rdU16 s = .next { s with
      status := setBit (setBit (setBit (setBit s.status 1 false) 2 false) 3 false) 0 true
      op := 0x6, opnd := s.dataIn, n := 2, k := 0, acc := 0, seq := .exec }) ∧
    (s.seq = .exec → s.op = 0x6 → s.n = 2 →
      (∀ j < 2, s.k = BitVec.ofNat 3 j →
        (∀ b, s.turn = .rxSource true false b → exec .rdU16 s = .next { s with
          acc := s.acc.extractLsb' 0 24 ++ b, rxTaken := s.rxTaken ++ [b], k := BitVec.ofNat 3 (j + 1) }) ∧
        (∀ b, s.turn = .rxSource false false b → exec .rdU16 s = .next s) ∧
        (∀ valid b, s.turn = .rxSource valid true b → exec .rdU16 s = .next { s with
          status := setBit (setBit (setBit s.status 2 true) 16 true) 0 false, seq := .idle })) ∧
      (s.k = 2 → s.turn = .block → exec .rdU16 s = .next { s with
        result := s.acc, status := setBit (setBit s.status 1 true) 0 false, seq := .idle })) ∧
    (∀ b0 b1 : Octet, ((0 : Word).extractLsb' 0 24 ++ b0 : Word).extractLsb' 0 24 ++ b1 = 0#16 ++ b0 ++ b1)

/-- R97: RD_U32. -/
def Obligations.RdU32TakesFourOctetsHighFirst : Prop :=
  ∀ s : State,
    encode .rdU32 = 0x00000007 ∧ octets .rdU32 = 4 ∧
    (s.turn = .host → s.busy = false → exec .rdU32 s = .next { s with
      status := setBit (setBit (setBit (setBit s.status 1 false) 2 false) 3 false) 0 true
      op := 0x7, opnd := s.dataIn, n := 4, k := 0, acc := 0, seq := .exec }) ∧
    (s.seq = .exec → s.op = 0x7 → s.n = 4 →
      (∀ j < 4, s.k = BitVec.ofNat 3 j →
        (∀ b, s.turn = .rxSource true false b → exec .rdU32 s = .next { s with
          acc := s.acc.extractLsb' 0 24 ++ b, rxTaken := s.rxTaken ++ [b], k := BitVec.ofNat 3 (j + 1) }) ∧
        (∀ b, s.turn = .rxSource false false b → exec .rdU32 s = .next s) ∧
        (∀ valid b, s.turn = .rxSource valid true b → exec .rdU32 s = .next { s with
          status := setBit (setBit (setBit s.status 2 true) 16 true) 0 false, seq := .idle })) ∧
      (s.k = 4 → s.turn = .block → exec .rdU32 s = .next { s with
        result := s.acc, status := setBit (setBit s.status 1 true) 0 false, seq := .idle })) ∧
    (∀ b0 b1 b2 b3 : Octet, valueOf [b0, b1, b2, b3] = b0 ++ b1 ++ b2 ++ b3)

/-- R112: BUILD_HDR. -/
def Obligations.BuildHdrComputesTheHeader : Prop :=
  ∀ s : State,
    encode .buildHdr = 0x00000008 ∧ octets .buildHdr = 0 ∧
    (s.turn = .host → s.busy = false → exec .buildHdr s = .next { s with
      status := setBit (setBit (setBit (setBit s.status 1 false) 2 false) 3 false) 0 true
      op := 0x8, opnd := s.dataIn, n := 0, k := 0, acc := 0, seq := .exec }) ∧
    (s.seq = .exec → s.op = 0x8 → s.n = 0 → s.k = 0 →
      (s.turn = .block → ∃ t, exec .buildHdr s = .next t ∧
        t = { s with result := t.result, status := t.status, seq := .idle } ∧
        t.result = 0x2B#8 ++ 0xD4#8 ++ s.opnd.extractLsb' 0 8 ++ ~~~(s.opnd.extractLsb' 0 8) ∧
        t.hsent = true ∧ t.hpcpl = true ∧ t.hccpl = true ∧ t.hwf = true ∧ t.hvalid = true ∧
        (t.hopk = true ↔ s.opnd.extractLsb' 0 8 ∈ [0x10#8, 0x13#8, 0x14#8, 0x15#8, 0x19#8, 0x1A#8, 0x40#8]) ∧
        t.doneBit = true ∧ t.busy = false ∧
        (∀ j, j ≠ 0 → j ≠ 1 → ¬ (8 ≤ j ∧ j ≤ 13) → t.status.getLsbD j = s.status.getLsbD j)) ∧
      (∀ ready err, s.turn = .txSink ready err → exec .buildHdr s = .next s) ∧
      (∀ valid err b, s.turn = .rxSource valid err b → exec .buildHdr s = .next s))

/-- R113: SEND_HDR. -/
def Obligations.SendHdrSendsTheHeader : Prop :=
  ∀ s : State,
    encode .sendHdr = 0x00000009 ∧ octets .sendHdr = 4 ∧
    (s.turn = .host → s.busy = false → exec .sendHdr s = .next { s with
      status := setBit (setBit (setBit (setBit s.status 1 false) 2 false) 3 false) 0 true
      op := 0x9, opnd := s.dataIn, n := 4, k := 0, acc := 0, seq := .exec }) ∧
    (s.seq = .exec → s.op = 0x9 → s.n = 4 →
      (∀ j < 4, s.k = BitVec.ofNat 3 j →
        (s.turn = .txSink true false → exec .sendHdr s = .next { s with
          txWire := s.txWire ++
            [(0x2B#8 ++ 0xD4#8 ++ s.opnd.extractLsb' 0 8 ++ ~~~(s.opnd.extractLsb' 0 8) : Word).extractLsb' (24 - 8 * j) 8]
          k := BitVec.ofNat 3 (j + 1) }) ∧
        (s.turn = .txSink false false → exec .sendHdr s = .next s) ∧
        (∀ ready, s.turn = .txSink ready true → exec .sendHdr s = .next { s with
          status := setBit (setBit (setBit s.status 2 true) 16 true) 0 false, seq := .idle })) ∧
      (s.k = 4 → s.turn = .block → ∃ t, exec .sendHdr s = .next t ∧
        t = { s with result := t.result, status := t.status, seq := .idle } ∧
        t.result = 0x2B#8 ++ 0xD4#8 ++ s.opnd.extractLsb' 0 8 ++ ~~~(s.opnd.extractLsb' 0 8) ∧
        t.hsent = true ∧ t.hpcpl = true ∧ t.hccpl = true ∧ t.hwf = true ∧ t.hvalid = true ∧
        (t.hopk = true ↔ s.opnd.extractLsb' 0 8 ∈ [0x10#8, 0x13#8, 0x14#8, 0x15#8, 0x19#8, 0x1A#8, 0x40#8]) ∧
        t.doneBit = true ∧ t.busy = false ∧
        (∀ j, j ≠ 0 → j ≠ 1 → ¬ (8 ≤ j ∧ j ≤ 13) → t.status.getLsbD j = s.status.getLsbD j)))

/-- R115: CHECK_HDR. -/
def Obligations.CheckHdrReportsTheFlags : Prop :=
  ∀ s : State,
    encode .checkHdr = 0x0000000A ∧ octets .checkHdr = 0 ∧
    (s.turn = .host → s.busy = false → exec .checkHdr s = .next { s with
      status := setBit (setBit (setBit (setBit s.status 1 false) 2 false) 3 false) 0 true
      op := 0xA, opnd := s.dataIn, n := 0, k := 0, acc := 0, seq := .exec }) ∧
    (s.seq = .exec → s.op = 0xA → s.n = 0 → s.k = 0 →
      (s.turn = .block → ∃ t, exec .checkHdr s = .next t ∧
        t = { s with status := t.status, seq := .idle } ∧
        (let w0 := s.opnd.extractLsb' 24 8
         let w1 := s.opnd.extractLsb' 16 8
         let w2 := s.opnd.extractLsb' 8 8
         let w3 := s.opnd.extractLsb' 0 8
         (t.hsent = true ↔ w0 = 0x2B#8) ∧ (t.hpcpl = true ↔ w1 = ~~~w0) ∧ (t.hccpl = true ↔ w3 = ~~~w2) ∧
         (t.hopk = true ↔ w2 ∈ [0x10#8, 0x13#8, 0x14#8, 0x15#8, 0x19#8, 0x1A#8, 0x40#8]) ∧
         (t.hwf = true ↔ w1 = ~~~w0 ∧ w3 = ~~~w2) ∧
         (t.hvalid = true ↔ w0 = 0x2B#8 ∧ w1 = ~~~w0 ∧ w3 = ~~~w2)) ∧
        t.doneBit = true ∧ t.busy = false ∧
        (∀ j, j ≠ 0 → j ≠ 1 → ¬ (8 ≤ j ∧ j ≤ 13) → t.status.getLsbD j = s.status.getLsbD j)) ∧
      (∀ ready err, s.turn = .txSink ready err → exec .checkHdr s = .next s) ∧
      (∀ valid err b, s.turn = .rxSource valid err b → exec .checkHdr s = .next s))

/-- R82, R83 (that header rows are host lines is log 1, DEDUCED; that the first line of `hdr.send` runs in this step is
log 12, DESIGN CHOICE): each header command stores its opcode in DATA_IN and leaves the other lines of
`hdr.send` to be issued next; nothing else changes. -/
def Obligations.HeaderCommandsIssueHdrSend : Prop :=
  ∀ (s : State) (i : Instr) (op : Word),
    (i, op) ∈ [(Instr.hdrStatus, 0x10#32), (.hdrGetVoltage, 0x13#32), (.hdrRtcGet, 0x14#32), (.hdrRtcSet, 0x15#32),
      (.hdrMemRead, 0x19#32), (.hdrMemWrite, 0x1A#32), (.hdrExtendedStatus, 0x40#32)] →
    exec i s = .next { s with dataIn := op, program := .write 0x00 32 0x00000009 :: .wait :: s.program }

/-- Issuing `cmd.<x>` as one line is issuing the first line of the expansion R83 gives it. That the first line falls in the
step of the `cmd.<x>` line is the model's choice (log 12, DESIGN CHOICE, on the line form of log 1). -/
def Obligations.HeaderLineIsItsExpansion : Prop :=
  ∀ (s : State) (i : Instr) (l : AsmLine) (rest : List HostLine),
    (i, l) ∈ [(Instr.hdrStatus, AsmLine.cmdStatus), (.hdrGetVoltage, .cmdGetVoltage), (.hdrRtcGet, .cmdRtcGet),
      (.hdrRtcSet, .cmdRtcSet), (.hdrMemRead, .cmdMemRead), (.hdrMemWrite, .cmdMemWrite),
      (.hdrExtendedStatus, .cmdExtStatus)] →
    AboutToIssue (.wireHeader (encode i)) rest s →
    step s = step { s with program := expansion l ++ rest }

/-- The frame of every operation: what a step of it leaves unchanged. On the host's turn only the registers R29 names
change; on the others only what R30, R33 and R163 name. -/
def Obligations.EachOperationKeepsItsFrame : Prop :=
  ∀ (s t : State) (i : Instr), exec i s = .next t →
    (i ∈ [.wrU8, .wrU16, .wrU32, .rdU8, .rdU16, .rdU32, .buildHdr, .sendHdr, .checkHdr] →
      t.dataIn = s.dataIn ∧ t.turn = s.turn ∧ t.schedule = s.schedule ∧ t.program = s.program ∧ t.reads = s.reads ∧
      (∀ j, 4 ≤ j → j ≠ 16 → j ≠ 17 → ¬ (8 ≤ j ∧ j ≤ 13) → t.status.getLsbD j = s.status.getLsbD j) ∧
      (s.turn ≠ .host → t.op = s.op ∧ t.opnd = s.opnd ∧ t.n = s.n ∧ t.status.getLsbD 17 = s.status.getLsbD 17) ∧
      (s.turn = .host → t.txWire = s.txWire ∧ t.rxTaken = s.rxTaken ∧ t.result = s.result ∧
        t.status.getLsbD 16 = s.status.getLsbD 16 ∧
        (∀ j, 8 ≤ j → j ≤ 13 → t.status.getLsbD j = s.status.getLsbD j))) ∧
    (i ∈ [.wrU8, .wrU16, .wrU32] →
      t.result = s.result ∧ t.rxTaken = s.rxTaken ∧ (s.turn ≠ .host → t.acc = s.acc) ∧
      (∀ j, 8 ≤ j → j ≤ 13 → t.status.getLsbD j = s.status.getLsbD j)) ∧
    (i ∈ [.rdU8, .rdU16, .rdU32] →
      t.txWire = s.txWire ∧ (∀ j, 8 ≤ j → j ≤ 13 → t.status.getLsbD j = s.status.getLsbD j)) ∧
    (i ∈ [.buildHdr, .checkHdr] →
      t.txWire = s.txWire ∧ t.rxTaken = s.rxTaken ∧ t.status.getLsbD 16 = s.status.getLsbD 16 ∧
      (s.turn ≠ .host → t.acc = s.acc ∧ t.k = s.k)) ∧
    (i = .checkHdr → t.result = s.result) ∧
    (i = .sendHdr → t.rxTaken = s.rxTaken ∧ (s.turn ≠ .host → t.acc = s.acc))

/-! ## The streams -/

/-- R41: when tx_valid is 1, what tx_data holds, when the octet is accepted, and that it is stable until then. -/
def Obligations.TxPortOffersTheCurrentOctet : Prop :=
  (∀ s : State, txValid s = true ↔
    s.seq = .exec ∧ s.k.toNat < s.n.toNat ∧ (∃ i, decodeOp s.op = .ok i ∧ i ∈ [.wrU8, .wrU16, .wrU32, .sendHdr])) ∧
  (∀ s : State, txValid s = true →
    txData s = some ((if s.op = 0x9 then hdr (s.opnd.extractLsb' 0 8) else s.opnd).extractLsb'
      (8 * (s.n.toNat - 1 - s.k.toNat)) 8)) ∧
  (∀ s t : State, Inv s → txValid s = true → step s = .next t →
    (txValid t = true ∧ txData t = txData s ∧ t.txWire = s.txWire) ∨
    (nextTurn s = some (.txSink true false) ∧ t.k = s.k + 1 ∧ ∃ b, txData s = some b ∧ t.txWire = s.txWire ++ [b]) ∨
    (Aborts s ∧ txValid t = false ∧ t.txWire = s.txWire) ∨
    (nextTurn s = some .reset ∧ txValid t = false ∧ t.txWire = s.txWire)) ∧
  (∀ s : State, txValid s = true → nextTurn s = some (.txSink true false) →
    step s = .next { s with
      turn := .txSink true false, schedule := s.schedule.tail
      txWire := s.txWire ++ (txData s).toList, k := s.k + 1 })

/-- R42: when rx_ready is 1, when an octet is taken, and that none is taken otherwise. -/
def Obligations.RxPortTakesOnlyWhatWasAsked : Prop :=
  (∀ s : State, rxReady s = true ↔
    s.seq = .exec ∧ s.k.toNat < s.n.toNat ∧ (∃ i, decodeOp s.op = .ok i ∧ i ∈ [.rdU8, .rdU16, .rdU32])) ∧
  (∀ (s : State) (b : Octet), rxReady s = true → nextTurn s = some (.rxSource true false b) →
    step s = .next { s with
      turn := .rxSource true false b, schedule := s.schedule.tail
      acc := s.acc.extractLsb' 0 24 ++ b, rxTaken := s.rxTaken ++ [b], k := s.k + 1 }) ∧
  (∀ s t : State, step s = .next t → t.rxTaken ≠ s.rxTaken →
    rxReady s = true ∧ ∃ b, nextTurn s = some (.rxSource true false b) ∧ t.rxTaken = s.rxTaken ++ [b])

/-- R43 with R163: an error on the stream the block waits on aborts, whatever valid and ready are; at all other times
the stream inputs change nothing. -/
def Obligations.StreamErrorsAreSampledOnlyWhileWaiting : Prop :=
  (∀ s : State, Aborts s → ∃ t, nextTurn s = some t ∧ step s = .next { s with
    turn := t, schedule := s.schedule.tail
    status := setBit (setBit (setBit s.status 2 true) 16 true) 0 false, seq := .idle }) ∧
  (∀ (s : State) (ready err : Bool), txValid s = false → nextTurn s = some (.txSink ready err) →
    step s = .next { s with turn := .txSink ready err, schedule := s.schedule.tail }) ∧
  (∀ (s : State) (valid err : Bool) (b : Octet), rxReady s = false → nextTurn s = some (.rxSource valid err b) →
    step s = .next { s with turn := .rxSource valid err b, schedule := s.schedule.tail })

/-- R64, R60: each step adds at most one octet to the wire, the one offered, and nothing on the wire is taken back. -/
def Obligations.WireGrowsOnlyByOfferedOctets : Prop :=
  ∀ s t : State, step s = .next t →
    t.txWire = s.txWire ∨
    ∃ b, txData s = some b ∧ nextTurn s = some (.txSink true false) ∧ t.txWire = s.txWire ++ [b] ∧ t.k = s.k + 1

/-- R184, R173, R30, R177: while an operation waits on its stream, a turn that brings no answer changes nothing, only an
octet moves K, only an octet taken moves ACC, and only a stream error or reset ends the operation. While SEQ is IDLE the
turns of the block and its streams change nothing, and the host's turn with no line to issue changes nothing (that a turn
without a rule is used up and passes is log 4). -/
def Obligations.WaitEndsOnlyByStreamOrReset : Prop :=
  (∀ (s : State) (t : Turn), s.seq = .exec → s.k.toNat < s.n.toNat → nextTurn s = some t → IsBlockTurn t →
    txAnswer t = .noAnswer → rxAnswer t = .noAnswer →
    step s = .next { s with turn := t, schedule := s.schedule.tail }) ∧
  (∀ s t : State, Inv s → s.seq = .exec → s.k.toNat < s.n.toNat → step s = .next t →
    (t.seq = .exec ∧ t.op = s.op ∧ t.opnd = s.opnd ∧ t.n = s.n ∧ ((t.k = s.k ∧ t.acc = s.acc) ∨
      (t.k = s.k + 1 ∧ ((txValid s = true ∧ nextTurn s = some (.txSink true false) ∧ t.acc = s.acc) ∨
        (rxReady s = true ∧ ∃ b, nextTurn s = some (.rxSource true false b) ∧
          t.acc = s.acc.extractLsb' 0 24 ++ b))))) ∨
    (t.seq = .idle ∧ (Aborts s ∨ nextTurn s = some .reset))) ∧
  (∀ (s : State) (t : Turn), s.seq = .idle → nextTurn s = some t → IsBlockTurn t →
    step s = .next { s with turn := t, schedule := s.schedule.tail }) ∧
  (∀ s : State, nextTurn s = some .host → s.program = [] →
    step s = .next { s with turn := .host, schedule := s.schedule.tail })

/-- R13: with no turn left, no completion due and no line to issue, no agent has a step. -/
def Obligations.NothingLeftToDoIsStuck : Prop :=
  ∀ s : State, s.schedule = [] → s.program = [] →
    (s.seq = .idle ∨ s.k ≠ s.n) → step s = .fault .stuck

/-- R33: `complete()` of each kind of operation, as a step of the machine. -/
def Obligations.CompletionDeliversAndReports : Prop :=
  ∀ (s : State) (i : Instr), Completes s → decodeOp s.op = .ok i →
    ∃ t, step s = .next t ∧
      t = { s with turn := .block, schedule := s.schedule.tail, result := t.result, status := t.status, seq := .idle } ∧
      t.doneBit = true ∧ t.busy = false ∧
      (∀ j, j ≠ 0 → j ≠ 1 → ¬ (8 ≤ j ∧ j ≤ 13) → t.status.getLsbD j = s.status.getLsbD j) ∧
      (i ∈ [.rdU8, .rdU16, .rdU32] → t.result = s.acc) ∧
      (i ∈ [.buildHdr, .sendHdr] → t.result = hdr (s.opnd.extractLsb' 0 8)) ∧
      (i ∈ [.wrU8, .wrU16, .wrU32, .checkHdr] → t.result = s.result) ∧
      (i ∈ [.wrU8, .wrU16, .wrU32, .rdU8, .rdU16, .rdU32] →
        ∀ j, 8 ≤ j → j ≤ 13 → t.status.getLsbD j = s.status.getLsbD j) ∧
      (∀ w, (i ∈ [.buildHdr, .sendHdr] ∧ w = hdr (s.opnd.extractLsb' 0 8)) ∨ (i = .checkHdr ∧ w = s.opnd) →
        (⟨t.hsent, t.hpcpl, t.hccpl, t.hopk, t.hwf, t.hvalid⟩ : HeaderFlags) = headerFlags w)

/-! ## Whole-machine rules -/

/-- The invariant holds after reset. -/
def Obligations.InvariantHoldsAtReset : Prop := Inv State.reset

/-- R31, R32, R34, R45 and R114 over all states: every step keeps the invariant of Safety.lean. -/
def Obligations.EveryStepKeepsTheInvariant : Prop :=
  ∀ s t : State, Inv s → step s = .next t → Inv t

/-- R35: what changes the header flags, and that they are written all six together. -/
def Obligations.HeaderFlagsChangeOnlyByHeaderCompletion : Prop :=
  ∀ s t : State, step s = .next t → (∃ j, 8 ≤ j ∧ j ≤ 13 ∧ t.status.getLsbD j ≠ s.status.getLsbD j) →
    nextTurn s = some .reset ∨
    (Completes s ∧ ∃ i w, decodeOp s.op = .ok i ∧
      ((i ∈ [.buildHdr, .sendHdr] ∧ w = hdr (s.opnd.extractLsb' 0 8)) ∨ (i = .checkHdr ∧ w = s.opnd)) ∧
      (⟨t.hsent, t.hpcpl, t.hccpl, t.hopk, t.hwf, t.hvalid⟩ : HeaderFlags) = headerFlags w)

/-- R36: every abort sets DESYNC, and only a host write of 1 to bit 16 and reset clear it. -/
def Obligations.DesyncIsSetByAbortAndSticky : Prop :=
  (∀ s t : State, Aborts s → step s = .next t → t.desync = true) ∧
  (∀ s t : State, step s = .next t → s.desync = true → t.desync = false →
    nextTurn s = some .reset ∨ ∃ v, HostWrites 0x0C v s ∧ v.getLsbD 16 = true) ∧
  (∀ s t : State, step s = .next t → s.desync = false → t.desync = true → Aborts s)

/-- R37: every rejected command write sets REJ, and only a host write of 1 to bit 17 and reset clear it. -/
def Obligations.RejIsSetByRejectionAndSticky : Prop :=
  (∀ (s t : State) (v : Word), HostWrites 0x00 v s → s.busy = true → step s = .next t → t.rej = true) ∧
  (∀ s t : State, step s = .next t → s.rej = true → t.rej = false →
    nextTurn s = some .reset ∨ ∃ v, HostWrites 0x0C v s ∧ v.getLsbD 17 = true) ∧
  (∀ s t : State, step s = .next t → s.rej = false → t.rej = true → s.busy = true ∧ ∃ v, HostWrites 0x00 v s)

/-- R32: BUSY is SEQ=EXEC in every state a step from an invariant state reaches; only an accepted legal command sets it,
and only completion, an abort and reset clear it. -/
def Obligations.BusyFollowsTheSequencer : Prop :=
  (∀ s t : State, Inv s → step s = .next t → (t.busy = true ↔ t.seq = .exec)) ∧
  (∀ s t : State, step s = .next t → s.busy = false → t.busy = true →
    ∃ v i, HostWrites 0x00 v s ∧ decodeCommand v = .ok i) ∧
  (∀ s t : State, step s = .next t → s.busy = true → t.busy = false →
    Completes s ∨ Aborts s ∨ nextTurn s = some .reset)

/-- R34 as a step rule: once a command has been accepted, the block is busy or reports exactly one outcome, until reset;
before the first accepted command and after reset it is neither; which outcome each event reports; and that it stays
reported, unchanged, until the next such event. -/
def Obligations.ExactlyOneOutcomeIsReported : Prop :=
  (∀ s t : State, Inv s → step s = .next t → nextTurn s ≠ some .reset →
    (Started t ↔ (Started s ∨ (s.busy = false ∧ ∃ v, HostWrites 0x00 v s)))) ∧
  (∀ s t : State, step s = .next t → nextTurn s = some .reset → outcomeCount t = 0 ∧ t.busy = false) ∧
  (∀ s t : State, Inv s → step s = .next t →
    (∀ i, Completes s → decodeOp s.op = .ok i → t.doneBit = true ∧ t.terr = false ∧ t.ill = false) ∧
    (Aborts s → t.doneBit = false ∧ t.terr = true ∧ t.ill = false) ∧
    (∀ v, HostWrites 0x00 v s → s.busy = false →
      t.doneBit = false ∧ t.terr = false ∧ (t.ill = true ↔ ∀ i, decodeCommand v ≠ .ok i))) ∧
  (∀ s t : State, step s = .next t → ¬ Completes s → ¬ Aborts s → nextTurn s ≠ some .reset →
    ¬ (s.busy = false ∧ ∃ v, HostWrites 0x00 v s) →
    t.doneBit = s.doneBit ∧ t.terr = s.terr ∧ t.ill = s.ill)

/-- R101, R27: DATA_IN changes only by a host write of DATA_IN, by a header command (which stores the
header's opcode; logs 1 and 12) and by reset. -/
def Obligations.DataInChangesOnlyByTheHost : Prop :=
  ∀ s t : State, step s = .next t → t.dataIn ≠ s.dataIn →
    nextTurn s = some .reset ∨ HostWrites 0x04 t.dataIn s ∨
    ∃ w i rest, AboutToIssue (.wireHeader w) rest s ∧ decodeHeader w = .ok i ∧
      t.dataIn = (w.extractLsb' 8 8).setWidth 32

/-! ## The header functions -/

/-- R114 on R111, that is R116: every built header passes every framing check. -/
def Obligations.BuiltHeadersPassTheirCheck : Prop :=
  ∀ op : Octet, headerFlags (hdr op) = ⟨true, true, true,
    decide (op ∈ [0x10#8, 0x13#8, 0x14#8, 0x15#8, 0x19#8, 0x1A#8, 0x40#8]), true, true⟩

/-- R117: a single flipped bit of a valid header is detected; the same bit flipped in w2 and w3 is left to HOPK. -/
def Obligations.SingleBitFlipIsDetected : Prop :=
  (∀ (w : Word) (j : Nat), j < 32 → (headerFlags w).hvalid = true →
    let f := headerFlags (w ^^^ (1#32 <<< j))
    f.hwf = false ∧ f.hvalid = false ∧ (16 ≤ j → f.hpcpl = false) ∧ (j < 16 → f.hccpl = false)) ∧
  (∀ (w : Word) (m : Nat), m < 8 → (headerFlags w).hvalid = true →
    let x := w ^^^ (1#32 <<< m) ^^^ (1#32 <<< (m + 8))
    (headerFlags x).hccpl = true ∧ (headerFlags x).hvalid = true ∧
      ((headerFlags x).hopk = false ↔ x.extractLsb' 8 8 ∉
        [0x10#8, 0x13#8, 0x14#8, 0x15#8, 0x19#8, 0x1A#8, 0x40#8]))

/-! ## Runs -/

/-- R92 to R94, R113, R164: with a sink that is always ready, a TX operation issued to an idle block completes, with its
octets on the wire in wire order; the hidden registers keep what accept and the transfers left in them. -/
def Obligations.TransmissionRunPutsTheOctetsOnTheWire : Prop :=
  ∀ (s : State) (i : Instr) (prog : List HostLine) (later : List Turn),
    i ∈ [.wrU8, .wrU16, .wrU32, .sendHdr] → s.busy = false →
    s.program = .write 0x00 32 (encode i) :: prog →
    s.schedule = .host :: (readySink (octets i) ++ .block :: later) →
    ∃ t, runs (octets i + 2) s = .next t ∧
      t.txWire = s.txWire ++
        octetsOf (octets i) (if i = .sendHdr then hdr (s.dataIn.extractLsb' 0 8) else s.dataIn) ∧
      t.result = (if i = .sendHdr then hdr (s.dataIn.extractLsb' 0 8) else s.result) ∧
      t.dataIn = s.dataIn ∧ t.rxTaken = s.rxTaken ∧ t.reads = s.reads ∧ t.program = prog ∧ t.schedule = later ∧
      t.seq = .idle ∧ t.busy = false ∧ t.doneBit = true ∧ t.terr = false ∧ t.ill = false ∧
      (∀ j, 4 ≤ j → ¬ (i = .sendHdr ∧ 8 ≤ j ∧ j ≤ 13) → t.status.getLsbD j = s.status.getLsbD j) ∧
      (i = .sendHdr → (⟨t.hsent, t.hpcpl, t.hccpl, t.hopk, t.hwf, t.hvalid⟩ : HeaderFlags) =
        headerFlags (hdr (s.dataIn.extractLsb' 0 8))) ∧
      t.op = (encode i).extractLsb' 0 4 ∧ t.opnd = s.dataIn ∧ t.n.toNat = octets i ∧ t.k = t.n ∧ t.acc = 0

/-- R95 to R97: with a source that supplies the octets, a read issued to an idle block completes, with the octets in
RESULT, the first in the most significant occupied octet, zero above; the hidden registers keep what accept and the
transfers left in them. -/
def Obligations.ReceptionRunDeliversTheValue : Prop :=
  ∀ (s : State) (i : Instr) (bs : List Octet) (prog : List HostLine) (later : List Turn),
    i ∈ [.rdU8, .rdU16, .rdU32] → bs.length = octets i → s.busy = false →
    s.program = .write 0x00 32 (encode i) :: prog →
    s.schedule = .host :: (supplyingSource bs ++ .block :: later) →
    ∃ t, runs (octets i + 2) s = .next t ∧
      t.result.toNat = bs.foldl (fun v b => 256 * v + b.toNat) 0 ∧
      t.rxTaken = s.rxTaken ++ bs ∧ t.txWire = s.txWire ∧
      t.dataIn = s.dataIn ∧ t.reads = s.reads ∧ t.program = prog ∧ t.schedule = later ∧
      t.seq = .idle ∧ t.busy = false ∧ t.doneBit = true ∧ t.terr = false ∧ t.ill = false ∧
      (∀ j, 4 ≤ j → t.status.getLsbD j = s.status.getLsbD j) ∧
      t.op = (encode i).extractLsb' 0 4 ∧ t.opnd = s.dataIn ∧ t.n.toNat = octets i ∧ t.k = t.n ∧ t.acc = t.result

/-- R164, R59: an operation that meets an error after `j` octets leaves those octets moved and delivers no value. -/
def Obligations.AbortKeepsWhatMovedAndDeliversNothing : Prop :=
  (∀ (s : State) (i : Instr) (j : Nat) (ready : Bool) (prog : List HostLine) (later : List Turn),
    i ∈ [.wrU8, .wrU16, .wrU32, .sendHdr] → j < octets i → s.busy = false →
    s.program = .write 0x00 32 (encode i) :: prog →
    s.schedule = .host :: (readySink j ++ .txSink ready true :: later) →
    ∃ t, runs (j + 2) s = .next t ∧
      t.txWire = s.txWire ++
        (octetsOf (octets i) (if i = .sendHdr then hdr (s.dataIn.extractLsb' 0 8) else s.dataIn)).take j ∧
      t.result = s.result ∧ t.dataIn = s.dataIn ∧ t.rxTaken = s.rxTaken ∧ t.seq = .idle ∧ t.busy = false ∧
      t.doneBit = false ∧ t.terr = true ∧ t.ill = false ∧ t.desync = true ∧ t.schedule = later ∧
      (∀ b, 4 ≤ b → b ≠ 16 → t.status.getLsbD b = s.status.getLsbD b)) ∧
  (∀ (s : State) (i : Instr) (bs : List Octet) (valid : Bool) (b0 : Octet) (prog : List HostLine) (later : List Turn),
    i ∈ [.rdU8, .rdU16, .rdU32] → bs.length < octets i → s.busy = false →
    s.program = .write 0x00 32 (encode i) :: prog →
    s.schedule = .host :: (supplyingSource bs ++ .rxSource valid true b0 :: later) →
    ∃ t, runs (bs.length + 2) s = .next t ∧
      t.rxTaken = s.rxTaken ++ bs ∧ t.txWire = s.txWire ∧
      t.result = s.result ∧ t.dataIn = s.dataIn ∧ t.seq = .idle ∧ t.busy = false ∧
      t.doneBit = false ∧ t.terr = true ∧ t.ill = false ∧ t.desync = true ∧ t.schedule = later ∧
      (∀ b, 4 ≤ b → b ≠ 16 → t.status.getLsbD b = s.status.getLsbD b))

/-- R98 with 90_conflicts C1 (that a turn without an answer passes is log 4): a sink that holds tx_ready low any number of times between octets makes no difference to
what is sent. -/
def Obligations.PartialAcceptanceIsNoError : Prop :=
  ∀ (s : State) (i : Instr) (readies : List Bool) (later : List Turn),
    Inv s → s.seq = .exec → decodeOp s.op = .ok i → i ∈ [.wrU8, .wrU16, .wrU32, .sendHdr] →
    s.k.toNat + readies.count true ≤ s.n.toNat →
    s.schedule = readies.map (fun r => Turn.txSink r false) ++ later →
    ∃ t, runs readies.length s = .next t ∧
      t.txWire = s.txWire ++
        ((octetsOf (octets i) (txWord s)).drop s.k.toNat).take (readies.count true) ∧
      t.k.toNat = s.k.toNat + readies.count true ∧ t.schedule = later ∧
      t.seq = .exec ∧ t.op = s.op ∧ t.opnd = s.opnd ∧ t.n = s.n ∧ t.status = s.status ∧ t.result = s.result ∧
      t.dataIn = s.dataIn ∧ t.acc = s.acc ∧ t.rxTaken = s.rxTaken ∧ t.reads = s.reads ∧ t.program = s.program

/-- R112, R115: BUILD_HDR and CHECK_HDR issued to an idle block complete with no stream turn at all, so they cannot
fail. -/
def Obligations.PureFramerOperationsCompleteWithoutStreams : Prop :=
  ∀ (s : State) (i : Instr) (prog : List HostLine) (later : List Turn),
    i ∈ [.buildHdr, .checkHdr] → s.busy = false →
    s.program = .write 0x00 32 (encode i) :: prog → s.schedule = .host :: .block :: later →
    ∃ t, runs 2 s = .next t ∧
      t.result = (if i = .buildHdr then hdr (s.dataIn.extractLsb' 0 8) else s.result) ∧
      (⟨t.hsent, t.hpcpl, t.hccpl, t.hopk, t.hwf, t.hvalid⟩ : HeaderFlags) =
        headerFlags (if i = .buildHdr then hdr (s.dataIn.extractLsb' 0 8) else s.dataIn) ∧
      t.dataIn = s.dataIn ∧ t.txWire = s.txWire ∧ t.rxTaken = s.rxTaken ∧ t.program = prog ∧ t.schedule = later ∧
      t.busy = false ∧ t.doneBit = true ∧ t.terr = false ∧ t.ill = false ∧
      (∀ j, 14 ≤ j → t.status.getLsbD j = s.status.getLsbD j)

/-- R76, R83, R113: a header command line issued to an idle block, with a sink that is always ready, puts its header on
the wire, leaves the header in RESULT, and its `wait` ends with the next host line. The line form and the number of steps are the
model's choice (logs 1, 12 and 13). -/
def Obligations.HeaderCommandRunSendsItsHeader : Prop :=
  ∀ (s : State) (i : Instr) (op : Octet) (prog : List HostLine) (later : List Turn),
    (i, op) ∈ [(Instr.hdrStatus, 0x10#8), (.hdrGetVoltage, 0x13#8), (.hdrRtcGet, 0x14#8), (.hdrRtcSet, 0x15#8),
      (.hdrMemRead, 0x19#8), (.hdrMemWrite, 0x1A#8), (.hdrExtendedStatus, 0x40#8)] →
    s.busy = false → s.program = .wireHeader (encode i) :: prog → s.schedule = operationTurns 4 ++ later →
    ∃ t, runs 8 s = .next t ∧
      t.txWire = s.txWire ++ [0x2B#8, 0xD4#8, op, ~~~op] ∧ t.result = encode i ∧
      t.dataIn = op.setWidth 32 ∧ t.rxTaken = s.rxTaken ∧ t.program = prog ∧ t.schedule = later ∧
      t.busy = false ∧ t.doneBit = true ∧ t.terr = false ∧ t.ill = false ∧
      (∀ j, 8 ≤ j → j ≤ 13 → t.status.getLsbD j = true) ∧
      t.reads = s.reads ++ [t.status]

/-- R99: a write looped back into a read gives the value's low octets zero-extended, and a read whose RESULT is written
back puts the same octets on the wire. The line that writes back the value read is the model's (log 13). -/
def Obligations.LoopbackReturnsTheValue : Prop :=
  ∀ (s : State) (wr rd : Instr) (prog : List HostLine) (later : List Turn),
    (wr, rd) ∈ [(Instr.wrU8, Instr.rdU8), (.wrU16, .rdU16), (.wrU32, .rdU32)] → s.busy = false →
    (s.program = .write 0x00 32 (encode wr) :: .write 0x00 32 (encode rd) :: prog →
      s.schedule = .host :: (readySink (octets wr) ++ .block ::
        .host :: (supplyingSource (octetsOf (octets wr) s.dataIn) ++ .block :: later)) →
      ∃ t, runs (2 * octets wr + 4) s = .next t ∧
        t.txWire = s.txWire ++ octetsOf (octets wr) s.dataIn ∧
        t.result = (s.dataIn.setWidth (8 * octets wr)).setWidth 32) ∧
    (∀ bs : List Octet, bs.length = octets rd →
      s.program = .write 0x00 32 (encode rd) :: .read 0x08 32 :: .writeLastRead 0x04 32 ::
        .write 0x00 32 (encode wr) :: prog →
      s.schedule = .host :: (supplyingSource bs ++ .block ::
        .host :: .host :: .host :: (readySink (octets wr) ++ .block :: later)) →
      ∃ t, runs (2 * octets wr + 6) s = .next t ∧ t.txWire = s.txWire ++ bs ∧ t.rxTaken = s.rxTaken ++ bs)

/-- R64, R82, R83: a host program of sending lines, run on an idle block with a sink that is always ready, puts the
lines' octets on the wire in program order and takes nothing from RX. -/
def Obligations.SendingProgramsReachTheWireInOrder : Prop :=
  ∀ (ls : List AsmLine) (s : State) (prog : List HostLine) (later : List Turn),
    (∀ l ∈ ls, l.wellFormed = true ∧ isSending l = true) → s.busy = false →
    s.program = ls.flatMap expansion ++ prog → s.schedule = ls.flatMap lineTurns ++ later →
    ∃ t, runs (ls.flatMap lineTurns).length s = .next t ∧
      t.txWire = s.txWire ++ ls.flatMap lineOctets ∧ t.rxTaken = s.rxTaken ∧
      t.busy = false ∧ t.program = prog ∧ t.schedule = later

/-- R136, R138, R140: the program of a write-only command puts exactly its request on the wire. -/
def Obligations.WriteOnlyCommandsSendTheirRequest : Prop :=
  ∀ (c : WireCommand) (s : State) (prog : List HostLine) (later : List Turn),
    ((∃ f0 f1 f2 f3 f4 f5, c = .rtcSet f0 f1 f2 f3 f4 f5) ∨
      ∃ address bytes, c = .memWrite address bytes ∧ bytes.length < 2 ^ 32) →
    s.busy = false →
    ∃ lines, assemble (commandProgram c) = .ok lines ∧
      (s.program = lines ++ prog → s.schedule = (commandProgram c).flatMap lineTurns ++ later →
        ∃ t, runs ((commandProgram c).flatMap lineTurns).length s = .next t ∧
          t.txWire = s.txWire ++ requestOctets c ∧ t.rxTaken = s.rxTaken ∧ t.program = prog)

/-! ## Host software -/

/-- R55, first fact: a wider write and the narrower ones put the same octets on the wire, as octets and as runs of the
machine from one state with a sink that is always ready. -/
def Obligations.WideWritesEqualNarrowWrites : Prop :=
  (∀ v : Word,
    octetsOf 4 v = octetsOf 1 (v >>> 24) ++ octetsOf 1 (v >>> 16) ++ octetsOf 1 (v >>> 8) ++ octetsOf 1 v ∧
    octetsOf 2 v = octetsOf 1 (v >>> 8) ++ octetsOf 1 v ∧
    octetsOf 4 v = [v.extractLsb' 24 8, v.extractLsb' 16 8, v.extractLsb' 8 8, v.extractLsb' 0 8]) ∧
  (∀ (s : State) (v : Word) (wide : AsmLine) (narrow : List AsmLine) (prog : List HostLine) (later : List Turn),
    (wide, narrow) ∈
      [(AsmLine.wrU32 v.toNat, [AsmLine.wrU8 (v.extractLsb' 24 8).toNat, .wrU8 (v.extractLsb' 16 8).toNat,
          .wrU8 (v.extractLsb' 8 8).toNat, .wrU8 (v.extractLsb' 0 8).toNat]),
        (.wrU16 (v.extractLsb' 0 16).toNat, [.wrU8 (v.extractLsb' 8 8).toNat, .wrU8 (v.extractLsb' 0 8).toNat])] →
    s.busy = false →
    ∃ t u,
      runs (lineTurns wide).length
        { s with program := expansion wide ++ prog, schedule := lineTurns wide ++ later } = .next t ∧
      runs (narrow.flatMap lineTurns).length
        { s with program := narrow.flatMap expansion ++ prog, schedule := narrow.flatMap lineTurns ++ later } = .next u ∧
      t.txWire = s.txWire ++ octetsOf narrow.length v ∧ u.txWire = t.txWire ∧
      t.rxTaken = s.rxTaken ∧ u.rxTaken = s.rxTaken ∧ t.busy = false ∧ u.busy = false)

/-- R55, second fact: a wider read takes the same octets as the RD_U8s that return them one by one, as runs of the machine
from one state with a source that supplies them. -/
def Obligations.WideReadsTakeWhatNarrowReadsTake : Prop :=
  ∀ (s : State) (b0 b1 b2 b3 : Octet) (prog : List HostLine) (later : List Turn), s.busy = false →
    let narrowLines : List HostLine := [.write 0x00 32 (encode .rdU8), .read 0x08 32]
    let narrowTurns : Octet → List Turn := fun b => .host :: (supplyingSource [b] ++ [.block, .host])
    ∃ t u,
      runs 6 { s with
        program := .write 0x00 32 (encode .rdU32) :: prog
        schedule := .host :: (supplyingSource [b0, b1, b2, b3] ++ .block :: later) } = .next t ∧
      runs 16 { s with
        program := narrowLines ++ narrowLines ++ narrowLines ++ narrowLines ++ prog
        schedule := narrowTurns b0 ++ narrowTurns b1 ++ narrowTurns b2 ++ narrowTurns b3 ++ later } = .next u ∧
      t.rxTaken = s.rxTaken ++ [b0, b1, b2, b3] ∧ u.rxTaken = t.rxTaken ∧
      t.txWire = s.txWire ∧ u.txWire = s.txWire ∧ t.reads = s.reads ∧
      u.reads = s.reads ++ [(t.result.extractLsb' 24 8).setWidth 32, (t.result.extractLsb' 16 8).setWidth 32,
        (t.result.extractLsb' 8 8).setWidth 32, (t.result.extractLsb' 0 8).setWidth 32]

/-- R82: the assembler takes an operation's immediate exactly if it fits, and expands it to its three lines. -/
def Obligations.AssemblerChecksOperands : Prop :=
  ∀ imm : Nat,
    assembleLine (.wrU8 imm) = (if imm < 2 ^ 8 then
      .ok [.write 0x04 32 (BitVec.ofNat 32 imm), .write 0x00 32 0x00000001, .wait] else .error .operandCheck) ∧
    assembleLine (.wrU16 imm) = (if imm < 2 ^ 16 then
      .ok [.write 0x04 32 (BitVec.ofNat 32 imm), .write 0x00 32 0x00000002, .wait] else .error .operandCheck) ∧
    assembleLine (.wrU32 imm) = (if imm < 2 ^ 32 then
      .ok [.write 0x04 32 (BitVec.ofNat 32 imm), .write 0x00 32 0x00000003, .wait] else .error .operandCheck) ∧
    assembleLine .rdU8 = .ok [.write 0x00 32 0x00000005, .wait] ∧
    assembleLine .rdU16 = .ok [.write 0x00 32 0x00000006, .wait] ∧
    assembleLine .rdU32 = .ok [.write 0x00 32 0x00000007, .wait] ∧
    assembleLine (.hdrBuild imm) = (if imm < 2 ^ 8 then
      .ok [.write 0x04 32 (BitVec.ofNat 32 imm), .write 0x00 32 0x00000008, .wait] else .error .operandCheck) ∧
    assembleLine (.hdrSend imm) = (if imm < 2 ^ 8 then
      .ok [.write 0x04 32 (BitVec.ofNat 32 imm), .write 0x00 32 0x00000009, .wait] else .error .operandCheck) ∧
    assembleLine (.hdrCheck imm) = (if imm < 2 ^ 32 then
      .ok [.write 0x04 32 (BitVec.ofNat 32 imm), .write 0x00 32 0x0000000A, .wait] else .error .operandCheck)

/-- R81's `wait`, one read of STATUS a step: the line stays in the program while bit 0 of the value read is 1. One read a
step with the line kept is the model's choice (log 13, DESIGN CHOICE). -/
def Obligations.WaitPollsUntilNotBusy : Prop :=
  ∀ (s : State) (rest : List HostLine), AboutToIssue .wait rest s →
    step s = .next { issued rest s with
      reads := s.reads ++ [s.status]
      program := if s.status.getLsbD 0 = true then .wait :: rest else rest }

/-- R150: a Status word is trusted exactly if its high octet is 0xA5. -/
def Obligations.StatusTrustIsTheHighOctet : Prop :=
  ∀ w : BitVec 16, statusTrusted w = true ↔ w &&& 0xFF00#16 = 0xA500#16

/-- R152: the verdict on an extended status word. -/
def Obligations.ExtendedStatusVerdict : Prop :=
  ∀ e : Word,
    (extendedTrusted e = true ↔ e.extractLsb' 24 8 = 0x5A#8 ∧ e.extractLsb' 16 8 = 0x05#8) ∧
    (extendedDevice e = .pro ↔ e.extractLsb' 8 8 = 0x18#8) ∧
    (extendedDevice e = .core ↔ e.extractLsb' 8 8 = 0x25#8) ∧
    (extendedDevice e = .unknown ↔ e.extractLsb' 8 8 ≠ 0x18#8 ∧ e.extractLsb' 8 8 ≠ 0x25#8) ∧
    (∀ b : Octet, extendedTrusted (e.extractLsb' 8 24 ++ b) = extendedTrusted e ∧
      extendedDevice (e.extractLsb' 8 24 ++ b) = extendedDevice e)
end

