-- ==== Sys2Proof/Laws/Bus.lean ====
section
/-! SUPPORT. The register window in the address space of the bus, whatever BUS_PROTOCOL's width and REG_BASE are. -/

namespace Sys2Proof.Machine

/-- The whole 16-byte window has addresses (20_memory R51). -/
theorem window_fits : Config.regBase + 16 ≤ 2 ^ Config.busAddressWidth := by
  have h16 : 2 ^ 4 ≤ 2 ^ Config.busAddressWidth := Nat.pow_le_pow_right (by decide) (Nat.le_add_right ..)
  have hp := Config.windowPlace.isLt
  unfold Config.regBase
  omega

/-- An address of the window is REG_BASE and the offset, without wrapping. -/
theorem windowAddress_toNat {off : Nat} (h : off < 16) : (windowAddress off).toNat = Config.regBase + off := by
  have := window_fits
  unfold windowAddress
  rw [BitVec.toNat_ofNat, Nat.mod_eq_of_lt (by omega)]

/-- An address of the window falls at its own offset. -/
theorem busOffset_windowAddress {off : Nat} (h : off < 16) : Config.busOffset (windowAddress off) = off := by
  unfold Config.busOffset
  rw [windowAddress_toNat h]
  omega

/-- An address is the window's at the offset it falls at: no second address reaches a register. -/
theorem eq_windowAddress {addr : BusAddress} {off : Nat} (h : off < 16) (ha : Config.busOffset addr = off) :
    addr = windowAddress off := by
  apply BitVec.eq_of_toNat_eq
  rw [windowAddress_toNat h]
  unfold Config.busOffset at ha
  omega

end Sys2Proof.Machine
end

