-- ==== Sys2Proof/Laws/Decode.lean ====
section
/-! SUPPORT. The operation codes of the nine operations, the octets of a word, and the opcodes of the headers. -/

namespace Sys2Proof

/-- The nine operations have these OP values and no other value is one (30_encoding R72). -/
theorem decodeOp_ok_iff (c : BitVec 4) (i : Instr) :
    decodeOp c = .ok i ↔
      (c = 1 ∧ i = .wrU8) ∨ (c = 2 ∧ i = .wrU16) ∨ (c = 3 ∧ i = .wrU32) ∨ (c = 5 ∧ i = .rdU8) ∨ (c = 6 ∧ i = .rdU16) ∨
      (c = 7 ∧ i = .rdU32) ∨ (c = 8 ∧ i = .buildHdr) ∨ (c = 9 ∧ i = .sendHdr) ∨ (c = 10 ∧ i = .checkHdr) := by
  cases i <;> revert c <;> decide

/-- A legal command word is an operation's OP value with zeros above it (R71). -/
theorem decodeCommand_ok_iff (v : Word) (i : Instr) :
    decodeCommand v = .ok i ↔ v.extractLsb' 4 28 = 0#28 ∧ decodeOp (v.extractLsb' 0 4) = .ok i := by
  unfold decodeCommand
  split <;> simp [*]

/-- The seven headers are no operations: what decodes as a header is no OP value's operation (R75, R76). -/
theorem decodeHeader_not_op {w : Word} {i : Instr} (h : decodeHeader w = .ok i) (c : BitVec 4) :
    decodeOp c ≠ .ok i := by
  have hi : i = .hdrStatus ∨ i = .hdrGetVoltage ∨ i = .hdrRtcGet ∨ i = .hdrRtcSet ∨ i = .hdrMemRead ∨
      i = .hdrMemWrite ∨ i = .hdrExtendedStatus := by
    revert h
    unfold decodeHeader decodeOpcode
    repeat' split
    all_goals simp
    all_goals (rintro rfl; simp)
  intro hc
  rw [decodeOp_ok_iff] at hc
  rcases hi with rfl | rfl | rfl | rfl | rfl | rfl | rfl <;> simp at hc

/-- A word is its RSV field over its OP field (R70). -/
theorem word_eq_fields (v : Word) : v = v.extractLsb' 4 28 ++ v.extractLsb' 0 4 := by
  apply BitVec.eq_of_getLsbD_eq
  intro j hj
  rw [BitVec.getLsbD_append, BitVec.getLsbD_extractLsb', BitVec.getLsbD_extractLsb']
  by_cases h4 : j < 4
  · simp [h4]
  · simp [h4, show 4 + (j - 4) = j by omega, show j - 4 < 28 by omega]

/-- A word is its four octets, w0 first (R53). -/
theorem word_eq_octets (w : Word) : w = wordOfWire (headerW0 w) (headerW1 w) (headerW2 w) (headerW3 w) := by
  apply BitVec.eq_of_getLsbD_eq
  intro j hj
  unfold wordOfWire
  rw [BitVec.getLsbD_append, BitVec.getLsbD_append, BitVec.getLsbD_append]
  simp only [headerW0, headerW1, headerW2, headerW3, BitVec.getLsbD_extractLsb']
  by_cases h1 : j < 8
  · simp [h1]
  · by_cases h2 : j - 8 < 8
    · simp [h1, h2, show 8 + (j - 8) = j by omega]
    · by_cases h3 : j - 8 - 8 < 8
      · simp [h1, h2, h3, show 16 + (j - 8 - 8) = j by omega]
      · simp [h1, h2, h3, show 24 + (j - 8 - 8 - 8) = j by omega]
        intro _
        omega

/-- The octets of a word put together from four octets. -/
@[simp] theorem headerW_wordOfWire (a b c d : Octet) :
    headerW0 (wordOfWire a b c d) = a ∧ headerW1 (wordOfWire a b c d) = b ∧ headerW2 (wordOfWire a b c d) = c ∧
      headerW3 (wordOfWire a b c d) = d := by
  refine ⟨?_, ?_, ?_, ?_⟩ <;> apply BitVec.eq_of_getLsbD_eq <;> intro j hj <;>
    simp only [headerW0, headerW1, headerW2, headerW3, BitVec.getLsbD_extractLsb', wordOfWire] <;>
    rw [BitVec.getLsbD_append, BitVec.getLsbD_append, BitVec.getLsbD_append]
  · simp [hj, show ¬ 24 + j < 8 by omega, show ¬ 24 + j - 8 < 8 by omega, show ¬ 24 + j - 8 - 8 < 8 by omega,
      show 24 + j - 8 - 8 - 8 = j by omega]
  · simp [hj, show ¬ 16 + j < 8 by omega, show ¬ 16 + j - 8 < 8 by omega, show 16 + j - 8 - 8 = j by omega]
  · simp [hj, show ¬ 8 + j < 8 by omega, show 8 + j - 8 = j by omega]
  · simp [hj]

/-- The first octet of an operation's word is not the sentinel (R70, R8). -/
theorem encode_op_first_octet (i : Instr) (c : BitVec 4) : decodeOp c = .ok i → headerW0 (encode i) ≠ 0x2B := by
  cases i <;> revert c <;> decide

/-- No operation's word is a header: w0 of a header is 0x2B (R70, R75). -/
theorem encode_op_ne_header {c : BitVec 4} {i : Instr} (h : decodeOp c = .ok i) (o : Octet) :
    encode i ≠ encodeHeader o := by
  intro he
  exact encode_op_first_octet i c h (he ▸ (headerW_wordOfWire ..).1)

/-- An opcode octet of the seven is its command's own (R76). -/
theorem decodeOpcode_encode {op : Octet} {i : Instr} (h : decodeOpcode op = .ok i) : encode i = encodeHeader op := by
  revert h
  unfold decodeOpcode
  repeat' split
  all_goals (intro h; cases h)
  all_goals (subst_vars; rfl)

/-- The opcode of a header that decodes to a command is the one in the command's encoding (R76). -/
theorem opcode_of_header {w : Word} {i : Instr} {o : Octet} (h : decodeHeader w = .ok i) (he : encode i = encodeHeader o) :
    headerW2 w = o := by
  have ho : decodeOpcode (headerW2 w) = .ok i := by
    revert h
    unfold decodeHeader
    repeat' split
    all_goals simp
  have h2 := congrArg headerW2 ((decodeOpcode_encode ho).symm.trans he)
  simpa [encodeHeader] using h2

end Sys2Proof
end

