-- ==== Sys2Proof/Laws/Flags.lean ====
section
/-! SUPPORT. What each STATUS update does to each bit, and what the header flags of a built header are. -/

namespace Sys2Proof.Machine

/-- One bit of STATUS after another bit is replaced. -/
@[simp] theorem getLsbD_setBit (st : Word) (i : Nat) (b : Bool) (j : Nat) (hi : i < 32) :
    (setBit st i b).getLsbD j = if j = i then b else st.getLsbD j := by
  have key : (1#32 <<< i).getLsbD j = decide (j = i) := by
    simp only [BitVec.getLsbD_shiftLeft, BitVec.getLsbD_one]
    by_cases hj : j = i
    · subst hj; simp [hi]
    · simp only [hj, decide_false]
      by_cases h32 : j < 32 <;> by_cases hlt : j < i <;> simp [h32, hlt]
      omega
  unfold setBit
  by_cases hj : j = i
  · subst hj; cases b <;> simp [hi]
  · cases b
    · simp only [Bool.false_eq_true, if_false, BitVec.getLsbD_and, BitVec.getLsbD_not, key, hj, decide_false]
      by_cases h32 : j < 32
      · simp [h32]
      · simp [h32]
        exact BitVec.getLsbD_of_ge st j (by omega)
    · simp [key, hj]

@[simp] theorem getElem_setBit (st : Word) (i : Nat) (b : Bool) (j : Nat) (hj : j < 32) (hi : i < 32) :
    (setBit st i b)[j] = if j = i then b else st[j] := by
  rw [← BitVec.getLsbD_eq_getElem, getLsbD_setBit st i b j hi, BitVec.getLsbD_eq_getElem]

@[simp] theorem getLsbD_clearOutcome (st : Word) (j : Nat) :
    (clearOutcome st).getLsbD j = if j = 3 then false else if j = 2 then false else if j = 1 then false else st.getLsbD j := by
  simp [clearOutcome]

@[simp] theorem getElem_clearOutcome (st : Word) (j : Nat) (hj : j < 32) :
    (clearOutcome st)[j] = if j = 3 then false else if j = 2 then false else if j = 1 then false else st[j] := by
  rw [← BitVec.getLsbD_eq_getElem, getLsbD_clearOutcome, BitVec.getLsbD_eq_getElem]

@[simp] theorem getLsbD_acceptedStatus (st : Word) (j : Nat) :
    (acceptedStatus st).getLsbD j =
      if j = 0 then true else if j = 3 then false else if j = 2 then false else if j = 1 then false else st.getLsbD j := by
  simp [acceptedStatus]

@[simp] theorem getElem_acceptedStatus (st : Word) (j : Nat) (hj : j < 32) :
    (acceptedStatus st)[j] =
      if j = 0 then true else if j = 3 then false else if j = 2 then false else if j = 1 then false else st[j] := by
  rw [← BitVec.getLsbD_eq_getElem, getLsbD_acceptedStatus, BitVec.getLsbD_eq_getElem]

@[simp] theorem getLsbD_illegalStatus (st : Word) (j : Nat) :
    (illegalStatus st).getLsbD j =
      if j = 3 then true else if j = 2 then false else if j = 1 then false else st.getLsbD j := by
  by_cases h : j = 3 <;> simp [illegalStatus, h]

@[simp] theorem getElem_illegalStatus (st : Word) (j : Nat) (hj : j < 32) :
    (illegalStatus st)[j] =
      if j = 3 then true else if j = 2 then false else if j = 1 then false else st[j] := by
  rw [← BitVec.getLsbD_eq_getElem, getLsbD_illegalStatus, BitVec.getLsbD_eq_getElem]

@[simp] theorem getLsbD_rejectedStatus (st : Word) (j : Nat) :
    (rejectedStatus st).getLsbD j = if j = 17 then true else st.getLsbD j := by
  simp [rejectedStatus]

@[simp] theorem getElem_rejectedStatus (st : Word) (j : Nat) (hj : j < 32) :
    (rejectedStatus st)[j] = if j = 17 then true else st[j] := by
  rw [← BitVec.getLsbD_eq_getElem, getLsbD_rejectedStatus, BitVec.getLsbD_eq_getElem]

@[simp] theorem getLsbD_completedStatus (st : Word) (j : Nat) :
    (completedStatus st).getLsbD j = if j = 0 then false else if j = 1 then true else st.getLsbD j := by
  simp [completedStatus]

@[simp] theorem getElem_completedStatus (st : Word) (j : Nat) (hj : j < 32) :
    (completedStatus st)[j] = if j = 0 then false else if j = 1 then true else st[j] := by
  rw [← BitVec.getLsbD_eq_getElem, getLsbD_completedStatus, BitVec.getLsbD_eq_getElem]

@[simp] theorem getLsbD_abortedStatus (st : Word) (j : Nat) :
    (abortedStatus st).getLsbD j =
      if j = 0 then false else if j = 16 then true else if j = 2 then true else st.getLsbD j := by
  simp [abortedStatus]

@[simp] theorem getElem_abortedStatus (st : Word) (j : Nat) (hj : j < 32) :
    (abortedStatus st)[j] =
      if j = 0 then false else if j = 16 then true else if j = 2 then true else st[j] := by
  rw [← BitVec.getLsbD_eq_getElem, getLsbD_abortedStatus, BitVec.getLsbD_eq_getElem]

@[simp] theorem getLsbD_clearSticky (v st : Word) (j : Nat) :
    (clearSticky v st).getLsbD j =
      (st.getLsbD j && !((j == 16 && v.getLsbD 16) || (j == 17 && v.getLsbD 17))) := by
  unfold clearSticky
  cases h16 : v.getLsbD 16 <;> cases h17 : v.getLsbD 17 <;>
    by_cases a : j = 16 <;> by_cases b : j = 17 <;> simp_all

@[simp] theorem getElem_clearSticky (v st : Word) (j : Nat) (hj : j < 32) :
    (clearSticky v st)[j] =
      (st[j] && !((j == 16 && v.getLsbD 16) || (j == 17 && v.getLsbD 17))) := by
  rw [← BitVec.getLsbD_eq_getElem, getLsbD_clearSticky, BitVec.getLsbD_eq_getElem]

@[simp] theorem getLsbD_setFlagsFrom (w st : Word) (j : Nat) :
    (setFlagsFrom w st).getLsbD j =
      if j = 13 then (headerFlags w).hvalid else if j = 12 then (headerFlags w).hwf
      else if j = 11 then (headerFlags w).hopk else if j = 10 then (headerFlags w).hccpl
      else if j = 9 then (headerFlags w).hpcpl else if j = 8 then (headerFlags w).hsent else st.getLsbD j := by
  simp [setFlagsFrom, setHeaderFlags]

@[simp] theorem getElem_setFlagsFrom (w st : Word) (j : Nat) (hj : j < 32) :
    (setFlagsFrom w st)[j] =
      if j = 13 then (headerFlags w).hvalid else if j = 12 then (headerFlags w).hwf
      else if j = 11 then (headerFlags w).hopk else if j = 10 then (headerFlags w).hccpl
      else if j = 9 then (headerFlags w).hpcpl else if j = 8 then (headerFlags w).hsent else st[j] := by
  rw [← BitVec.getLsbD_eq_getElem, getLsbD_setFlagsFrom, BitVec.getLsbD_eq_getElem]

/-- HVALID of a flag report is HSENT and HWF (41_framer R114). -/
theorem headerFlags_hvalid (w : Word) :
    (headerFlags w).hvalid = ((headerFlags w).hsent && (headerFlags w).hwf) := by
  simp [headerFlags, Bool.and_assoc]

/-- HWF of a flag report is HPCPL and HCCPL (R114). -/
theorem headerFlags_hwf (w : Word) :
    (headerFlags w).hwf = ((headerFlags w).hpcpl && (headerFlags w).hccpl) := rfl

end Sys2Proof.Machine
end

