-- ==== Sys2Proof/Laws/State.lean ====
section
/-! SUPPORT. What each named operation does to each field of State, one lemma a field. -/

namespace Sys2Proof.Machine

variable (s : State)

@[simp] theorem regRead_dataIn (r : Reg) : (regRead r s).dataIn = s.dataIn := rfl
@[simp] theorem regRead_result (r : Reg) : (regRead r s).result = s.result := rfl
@[simp] theorem regRead_status (r : Reg) : (regRead r s).status = s.status := rfl
@[simp] theorem regRead_seq (r : Reg) : (regRead r s).seq = s.seq := rfl
@[simp] theorem regRead_op (r : Reg) : (regRead r s).op = s.op := rfl
@[simp] theorem regRead_opnd (r : Reg) : (regRead r s).opnd = s.opnd := rfl
@[simp] theorem regRead_n (r : Reg) : (regRead r s).n = s.n := rfl
@[simp] theorem regRead_k (r : Reg) : (regRead r s).k = s.k := rfl
@[simp] theorem regRead_acc (r : Reg) : (regRead r s).acc = s.acc := rfl
@[simp] theorem regRead_turn (r : Reg) : (regRead r s).turn = s.turn := rfl
@[simp] theorem regRead_schedule (r : Reg) : (regRead r s).schedule = s.schedule := rfl
@[simp] theorem regRead_program (r : Reg) : (regRead r s).program = s.program := rfl
@[simp] theorem regRead_txWire (r : Reg) : (regRead r s).txWire = s.txWire := rfl
@[simp] theorem regRead_rxTaken (r : Reg) : (regRead r s).rxTaken = s.rxTaken := rfl
@[simp] theorem regRead_reads (r : Reg) : (regRead r s).reads = s.reads ++ [regValue r s] := rfl

@[simp] theorem writeDataIn_dataIn (v : Word) : (writeDataIn v s).dataIn = v := rfl
@[simp] theorem writeDataIn_result (v : Word) : (writeDataIn v s).result = s.result := rfl
@[simp] theorem writeDataIn_status (v : Word) : (writeDataIn v s).status = s.status := rfl
@[simp] theorem writeDataIn_seq (v : Word) : (writeDataIn v s).seq = s.seq := rfl
@[simp] theorem writeDataIn_op (v : Word) : (writeDataIn v s).op = s.op := rfl
@[simp] theorem writeDataIn_opnd (v : Word) : (writeDataIn v s).opnd = s.opnd := rfl
@[simp] theorem writeDataIn_n (v : Word) : (writeDataIn v s).n = s.n := rfl
@[simp] theorem writeDataIn_k (v : Word) : (writeDataIn v s).k = s.k := rfl
@[simp] theorem writeDataIn_acc (v : Word) : (writeDataIn v s).acc = s.acc := rfl
@[simp] theorem writeDataIn_turn (v : Word) : (writeDataIn v s).turn = s.turn := rfl
@[simp] theorem writeDataIn_schedule (v : Word) : (writeDataIn v s).schedule = s.schedule := rfl
@[simp] theorem writeDataIn_program (v : Word) : (writeDataIn v s).program = s.program := rfl
@[simp] theorem writeDataIn_txWire (v : Word) : (writeDataIn v s).txWire = s.txWire := rfl
@[simp] theorem writeDataIn_rxTaken (v : Word) : (writeDataIn v s).rxTaken = s.rxTaken := rfl
@[simp] theorem writeDataIn_reads (v : Word) : (writeDataIn v s).reads = s.reads := rfl

@[simp] theorem writeStatus_dataIn (v : Word) : (writeStatus v s).dataIn = s.dataIn := rfl
@[simp] theorem writeStatus_result (v : Word) : (writeStatus v s).result = s.result := rfl
@[simp] theorem writeStatus_status (v : Word) : (writeStatus v s).status = clearSticky v s.status := rfl
@[simp] theorem writeStatus_seq (v : Word) : (writeStatus v s).seq = s.seq := rfl
@[simp] theorem writeStatus_op (v : Word) : (writeStatus v s).op = s.op := rfl
@[simp] theorem writeStatus_opnd (v : Word) : (writeStatus v s).opnd = s.opnd := rfl
@[simp] theorem writeStatus_n (v : Word) : (writeStatus v s).n = s.n := rfl
@[simp] theorem writeStatus_k (v : Word) : (writeStatus v s).k = s.k := rfl
@[simp] theorem writeStatus_acc (v : Word) : (writeStatus v s).acc = s.acc := rfl
@[simp] theorem writeStatus_turn (v : Word) : (writeStatus v s).turn = s.turn := rfl
@[simp] theorem writeStatus_schedule (v : Word) : (writeStatus v s).schedule = s.schedule := rfl
@[simp] theorem writeStatus_program (v : Word) : (writeStatus v s).program = s.program := rfl
@[simp] theorem writeStatus_txWire (v : Word) : (writeStatus v s).txWire = s.txWire := rfl
@[simp] theorem writeStatus_rxTaken (v : Word) : (writeStatus v s).rxTaken = s.rxTaken := rfl
@[simp] theorem writeStatus_reads (v : Word) : (writeStatus v s).reads = s.reads := rfl

@[simp] theorem rejectCommand_dataIn : (rejectCommand s).dataIn = s.dataIn := rfl
@[simp] theorem rejectCommand_result : (rejectCommand s).result = s.result := rfl
@[simp] theorem rejectCommand_status : (rejectCommand s).status = rejectedStatus s.status := rfl
@[simp] theorem rejectCommand_seq : (rejectCommand s).seq = s.seq := rfl
@[simp] theorem rejectCommand_op : (rejectCommand s).op = s.op := rfl
@[simp] theorem rejectCommand_opnd : (rejectCommand s).opnd = s.opnd := rfl
@[simp] theorem rejectCommand_n : (rejectCommand s).n = s.n := rfl
@[simp] theorem rejectCommand_k : (rejectCommand s).k = s.k := rfl
@[simp] theorem rejectCommand_acc : (rejectCommand s).acc = s.acc := rfl
@[simp] theorem rejectCommand_turn : (rejectCommand s).turn = s.turn := rfl
@[simp] theorem rejectCommand_schedule : (rejectCommand s).schedule = s.schedule := rfl
@[simp] theorem rejectCommand_program : (rejectCommand s).program = s.program := rfl
@[simp] theorem rejectCommand_txWire : (rejectCommand s).txWire = s.txWire := rfl
@[simp] theorem rejectCommand_rxTaken : (rejectCommand s).rxTaken = s.rxTaken := rfl
@[simp] theorem rejectCommand_reads : (rejectCommand s).reads = s.reads := rfl

@[simp] theorem illegalCommand_dataIn : (illegalCommand s).dataIn = s.dataIn := rfl
@[simp] theorem illegalCommand_result : (illegalCommand s).result = s.result := rfl
@[simp] theorem illegalCommand_status : (illegalCommand s).status = illegalStatus s.status := rfl
@[simp] theorem illegalCommand_seq : (illegalCommand s).seq = s.seq := rfl
@[simp] theorem illegalCommand_op : (illegalCommand s).op = s.op := rfl
@[simp] theorem illegalCommand_opnd : (illegalCommand s).opnd = s.opnd := rfl
@[simp] theorem illegalCommand_n : (illegalCommand s).n = s.n := rfl
@[simp] theorem illegalCommand_k : (illegalCommand s).k = s.k := rfl
@[simp] theorem illegalCommand_acc : (illegalCommand s).acc = s.acc := rfl
@[simp] theorem illegalCommand_turn : (illegalCommand s).turn = s.turn := rfl
@[simp] theorem illegalCommand_schedule : (illegalCommand s).schedule = s.schedule := rfl
@[simp] theorem illegalCommand_program : (illegalCommand s).program = s.program := rfl
@[simp] theorem illegalCommand_txWire : (illegalCommand s).txWire = s.txWire := rfl
@[simp] theorem illegalCommand_rxTaken : (illegalCommand s).rxTaken = s.rxTaken := rfl
@[simp] theorem illegalCommand_reads : (illegalCommand s).reads = s.reads := rfl

@[simp] theorem acceptCommand_dataIn (c : BitVec 4) (m : BitVec 3) : (acceptCommand c m s).dataIn = s.dataIn := rfl
@[simp] theorem acceptCommand_result (c : BitVec 4) (m : BitVec 3) : (acceptCommand c m s).result = s.result := rfl
@[simp] theorem acceptCommand_status (c : BitVec 4) (m : BitVec 3) : (acceptCommand c m s).status = acceptedStatus s.status := rfl
@[simp] theorem acceptCommand_seq (c : BitVec 4) (m : BitVec 3) : (acceptCommand c m s).seq = .exec := rfl
@[simp] theorem acceptCommand_op (c : BitVec 4) (m : BitVec 3) : (acceptCommand c m s).op = c := rfl
@[simp] theorem acceptCommand_opnd (c : BitVec 4) (m : BitVec 3) : (acceptCommand c m s).opnd = s.dataIn := rfl
@[simp] theorem acceptCommand_n (c : BitVec 4) (m : BitVec 3) : (acceptCommand c m s).n = m := rfl
@[simp] theorem acceptCommand_k (c : BitVec 4) (m : BitVec 3) : (acceptCommand c m s).k = 0 := rfl
@[simp] theorem acceptCommand_acc (c : BitVec 4) (m : BitVec 3) : (acceptCommand c m s).acc = 0 := rfl
@[simp] theorem acceptCommand_turn (c : BitVec 4) (m : BitVec 3) : (acceptCommand c m s).turn = s.turn := rfl
@[simp] theorem acceptCommand_schedule (c : BitVec 4) (m : BitVec 3) : (acceptCommand c m s).schedule = s.schedule := rfl
@[simp] theorem acceptCommand_program (c : BitVec 4) (m : BitVec 3) : (acceptCommand c m s).program = s.program := rfl
@[simp] theorem acceptCommand_txWire (c : BitVec 4) (m : BitVec 3) : (acceptCommand c m s).txWire = s.txWire := rfl
@[simp] theorem acceptCommand_rxTaken (c : BitVec 4) (m : BitVec 3) : (acceptCommand c m s).rxTaken = s.rxTaken := rfl
@[simp] theorem acceptCommand_reads (c : BitVec 4) (m : BitVec 3) : (acceptCommand c m s).reads = s.reads := rfl

@[simp] theorem raiseTransportError_dataIn : (raiseTransportError s).dataIn = s.dataIn := rfl
@[simp] theorem raiseTransportError_result : (raiseTransportError s).result = s.result := rfl
@[simp] theorem raiseTransportError_status : (raiseTransportError s).status = abortedStatus s.status := rfl
@[simp] theorem raiseTransportError_seq : (raiseTransportError s).seq = .idle := rfl
@[simp] theorem raiseTransportError_op : (raiseTransportError s).op = s.op := rfl
@[simp] theorem raiseTransportError_opnd : (raiseTransportError s).opnd = s.opnd := rfl
@[simp] theorem raiseTransportError_n : (raiseTransportError s).n = s.n := rfl
@[simp] theorem raiseTransportError_k : (raiseTransportError s).k = s.k := rfl
@[simp] theorem raiseTransportError_acc : (raiseTransportError s).acc = s.acc := rfl
@[simp] theorem raiseTransportError_turn : (raiseTransportError s).turn = s.turn := rfl
@[simp] theorem raiseTransportError_schedule : (raiseTransportError s).schedule = s.schedule := rfl
@[simp] theorem raiseTransportError_program : (raiseTransportError s).program = s.program := rfl
@[simp] theorem raiseTransportError_txWire : (raiseTransportError s).txWire = s.txWire := rfl
@[simp] theorem raiseTransportError_rxTaken : (raiseTransportError s).rxTaken = s.rxTaken := rfl
@[simp] theorem raiseTransportError_reads : (raiseTransportError s).reads = s.reads := rfl

@[simp] theorem putOctet_dataIn (b : Octet) : (putOctet b s).dataIn = s.dataIn := rfl
@[simp] theorem putOctet_result (b : Octet) : (putOctet b s).result = s.result := rfl
@[simp] theorem putOctet_status (b : Octet) : (putOctet b s).status = s.status := rfl
@[simp] theorem putOctet_seq (b : Octet) : (putOctet b s).seq = s.seq := rfl
@[simp] theorem putOctet_op (b : Octet) : (putOctet b s).op = s.op := rfl
@[simp] theorem putOctet_opnd (b : Octet) : (putOctet b s).opnd = s.opnd := rfl
@[simp] theorem putOctet_n (b : Octet) : (putOctet b s).n = s.n := rfl
@[simp] theorem putOctet_k (b : Octet) : (putOctet b s).k = s.k + 1 := rfl
@[simp] theorem putOctet_acc (b : Octet) : (putOctet b s).acc = s.acc := rfl
@[simp] theorem putOctet_turn (b : Octet) : (putOctet b s).turn = s.turn := rfl
@[simp] theorem putOctet_schedule (b : Octet) : (putOctet b s).schedule = s.schedule := rfl
@[simp] theorem putOctet_program (b : Octet) : (putOctet b s).program = s.program := rfl
@[simp] theorem putOctet_txWire (b : Octet) : (putOctet b s).txWire = s.txWire ++ [b] := rfl
@[simp] theorem putOctet_rxTaken (b : Octet) : (putOctet b s).rxTaken = s.rxTaken := rfl
@[simp] theorem putOctet_reads (b : Octet) : (putOctet b s).reads = s.reads := rfl

@[simp] theorem takeOctet_dataIn (b : Octet) : (takeOctet b s).dataIn = s.dataIn := rfl
@[simp] theorem takeOctet_result (b : Octet) : (takeOctet b s).result = s.result := rfl
@[simp] theorem takeOctet_status (b : Octet) : (takeOctet b s).status = s.status := rfl
@[simp] theorem takeOctet_seq (b : Octet) : (takeOctet b s).seq = s.seq := rfl
@[simp] theorem takeOctet_op (b : Octet) : (takeOctet b s).op = s.op := rfl
@[simp] theorem takeOctet_opnd (b : Octet) : (takeOctet b s).opnd = s.opnd := rfl
@[simp] theorem takeOctet_n (b : Octet) : (takeOctet b s).n = s.n := rfl
@[simp] theorem takeOctet_k (b : Octet) : (takeOctet b s).k = s.k + 1 := rfl
@[simp] theorem takeOctet_acc (b : Octet) : (takeOctet b s).acc = shiftIn s.acc b := rfl
@[simp] theorem takeOctet_turn (b : Octet) : (takeOctet b s).turn = s.turn := rfl
@[simp] theorem takeOctet_schedule (b : Octet) : (takeOctet b s).schedule = s.schedule := rfl
@[simp] theorem takeOctet_program (b : Octet) : (takeOctet b s).program = s.program := rfl
@[simp] theorem takeOctet_txWire (b : Octet) : (takeOctet b s).txWire = s.txWire := rfl
@[simp] theorem takeOctet_rxTaken (b : Octet) : (takeOctet b s).rxTaken = s.rxTaken ++ [b] := rfl
@[simp] theorem takeOctet_reads (b : Octet) : (takeOctet b s).reads = s.reads := rfl

@[simp] theorem deliver_dataIn (v : Word) : (deliver v s).dataIn = s.dataIn := rfl
@[simp] theorem deliver_result (v : Word) : (deliver v s).result = v := rfl
@[simp] theorem deliver_status (v : Word) : (deliver v s).status = s.status := rfl
@[simp] theorem deliver_seq (v : Word) : (deliver v s).seq = s.seq := rfl
@[simp] theorem deliver_op (v : Word) : (deliver v s).op = s.op := rfl
@[simp] theorem deliver_opnd (v : Word) : (deliver v s).opnd = s.opnd := rfl
@[simp] theorem deliver_n (v : Word) : (deliver v s).n = s.n := rfl
@[simp] theorem deliver_k (v : Word) : (deliver v s).k = s.k := rfl
@[simp] theorem deliver_acc (v : Word) : (deliver v s).acc = s.acc := rfl
@[simp] theorem deliver_turn (v : Word) : (deliver v s).turn = s.turn := rfl
@[simp] theorem deliver_schedule (v : Word) : (deliver v s).schedule = s.schedule := rfl
@[simp] theorem deliver_program (v : Word) : (deliver v s).program = s.program := rfl
@[simp] theorem deliver_txWire (v : Word) : (deliver v s).txWire = s.txWire := rfl
@[simp] theorem deliver_rxTaken (v : Word) : (deliver v s).rxTaken = s.rxTaken := rfl
@[simp] theorem deliver_reads (v : Word) : (deliver v s).reads = s.reads := rfl

@[simp] theorem reportHeader_dataIn (w : Word) : (reportHeader w s).dataIn = s.dataIn := rfl
@[simp] theorem reportHeader_result (w : Word) : (reportHeader w s).result = s.result := rfl
@[simp] theorem reportHeader_status (w : Word) : (reportHeader w s).status = setFlagsFrom w s.status := rfl
@[simp] theorem reportHeader_seq (w : Word) : (reportHeader w s).seq = s.seq := rfl
@[simp] theorem reportHeader_op (w : Word) : (reportHeader w s).op = s.op := rfl
@[simp] theorem reportHeader_opnd (w : Word) : (reportHeader w s).opnd = s.opnd := rfl
@[simp] theorem reportHeader_n (w : Word) : (reportHeader w s).n = s.n := rfl
@[simp] theorem reportHeader_k (w : Word) : (reportHeader w s).k = s.k := rfl
@[simp] theorem reportHeader_acc (w : Word) : (reportHeader w s).acc = s.acc := rfl
@[simp] theorem reportHeader_turn (w : Word) : (reportHeader w s).turn = s.turn := rfl
@[simp] theorem reportHeader_schedule (w : Word) : (reportHeader w s).schedule = s.schedule := rfl
@[simp] theorem reportHeader_program (w : Word) : (reportHeader w s).program = s.program := rfl
@[simp] theorem reportHeader_txWire (w : Word) : (reportHeader w s).txWire = s.txWire := rfl
@[simp] theorem reportHeader_rxTaken (w : Word) : (reportHeader w s).rxTaken = s.rxTaken := rfl
@[simp] theorem reportHeader_reads (w : Word) : (reportHeader w s).reads = s.reads := rfl

@[simp] theorem finish_dataIn : (finish s).dataIn = s.dataIn := rfl
@[simp] theorem finish_result : (finish s).result = s.result := rfl
@[simp] theorem finish_status : (finish s).status = completedStatus s.status := rfl
@[simp] theorem finish_seq : (finish s).seq = .idle := rfl
@[simp] theorem finish_op : (finish s).op = s.op := rfl
@[simp] theorem finish_opnd : (finish s).opnd = s.opnd := rfl
@[simp] theorem finish_n : (finish s).n = s.n := rfl
@[simp] theorem finish_k : (finish s).k = s.k := rfl
@[simp] theorem finish_acc : (finish s).acc = s.acc := rfl
@[simp] theorem finish_turn : (finish s).turn = s.turn := rfl
@[simp] theorem finish_schedule : (finish s).schedule = s.schedule := rfl
@[simp] theorem finish_program : (finish s).program = s.program := rfl
@[simp] theorem finish_txWire : (finish s).txWire = s.txWire := rfl
@[simp] theorem finish_rxTaken : (finish s).rxTaken = s.rxTaken := rfl
@[simp] theorem finish_reads : (finish s).reads = s.reads := rfl

@[simp] theorem sendHeaderCommand_dataIn (o : Octet) : (sendHeaderCommand o s).dataIn = o.setWidth 32 := rfl
@[simp] theorem sendHeaderCommand_result (o : Octet) : (sendHeaderCommand o s).result = s.result := rfl
@[simp] theorem sendHeaderCommand_status (o : Octet) : (sendHeaderCommand o s).status = s.status := rfl
@[simp] theorem sendHeaderCommand_seq (o : Octet) : (sendHeaderCommand o s).seq = s.seq := rfl
@[simp] theorem sendHeaderCommand_op (o : Octet) : (sendHeaderCommand o s).op = s.op := rfl
@[simp] theorem sendHeaderCommand_opnd (o : Octet) : (sendHeaderCommand o s).opnd = s.opnd := rfl
@[simp] theorem sendHeaderCommand_n (o : Octet) : (sendHeaderCommand o s).n = s.n := rfl
@[simp] theorem sendHeaderCommand_k (o : Octet) : (sendHeaderCommand o s).k = s.k := rfl
@[simp] theorem sendHeaderCommand_acc (o : Octet) : (sendHeaderCommand o s).acc = s.acc := rfl
@[simp] theorem sendHeaderCommand_turn (o : Octet) : (sendHeaderCommand o s).turn = s.turn := rfl
@[simp] theorem sendHeaderCommand_schedule (o : Octet) : (sendHeaderCommand o s).schedule = s.schedule := rfl
@[simp] theorem sendHeaderCommand_program (o : Octet) : (sendHeaderCommand o s).program = .write 0x00 32 0x00000009 :: .wait :: s.program := rfl
@[simp] theorem sendHeaderCommand_txWire (o : Octet) : (sendHeaderCommand o s).txWire = s.txWire := rfl
@[simp] theorem sendHeaderCommand_rxTaken (o : Octet) : (sendHeaderCommand o s).rxTaken = s.rxTaken := rfl
@[simp] theorem sendHeaderCommand_reads (o : Octet) : (sendHeaderCommand o s).reads = s.reads := rfl

@[simp] theorem resetBlock_dataIn : (resetBlock s).dataIn = 0 := rfl
@[simp] theorem resetBlock_result : (resetBlock s).result = 0 := rfl
@[simp] theorem resetBlock_status : (resetBlock s).status = 0 := rfl
@[simp] theorem resetBlock_seq : (resetBlock s).seq = .idle := rfl
@[simp] theorem resetBlock_op : (resetBlock s).op = 0 := rfl
@[simp] theorem resetBlock_opnd : (resetBlock s).opnd = 0 := rfl
@[simp] theorem resetBlock_n : (resetBlock s).n = 0 := rfl
@[simp] theorem resetBlock_k : (resetBlock s).k = 0 := rfl
@[simp] theorem resetBlock_acc : (resetBlock s).acc = 0 := rfl
@[simp] theorem resetBlock_turn : (resetBlock s).turn = s.turn := rfl
@[simp] theorem resetBlock_schedule : (resetBlock s).schedule = s.schedule := rfl
@[simp] theorem resetBlock_program : (resetBlock s).program = s.program := rfl
@[simp] theorem resetBlock_txWire : (resetBlock s).txWire = s.txWire := rfl
@[simp] theorem resetBlock_rxTaken : (resetBlock s).rxTaken = s.rxTaken := rfl
@[simp] theorem resetBlock_reads : (resetBlock s).reads = s.reads := rfl

@[simp] theorem takeTurn_dataIn (t : Turn) : (takeTurn t s).dataIn = s.dataIn := rfl
@[simp] theorem takeTurn_result (t : Turn) : (takeTurn t s).result = s.result := rfl
@[simp] theorem takeTurn_status (t : Turn) : (takeTurn t s).status = s.status := rfl
@[simp] theorem takeTurn_seq (t : Turn) : (takeTurn t s).seq = s.seq := rfl
@[simp] theorem takeTurn_op (t : Turn) : (takeTurn t s).op = s.op := rfl
@[simp] theorem takeTurn_opnd (t : Turn) : (takeTurn t s).opnd = s.opnd := rfl
@[simp] theorem takeTurn_n (t : Turn) : (takeTurn t s).n = s.n := rfl
@[simp] theorem takeTurn_k (t : Turn) : (takeTurn t s).k = s.k := rfl
@[simp] theorem takeTurn_acc (t : Turn) : (takeTurn t s).acc = s.acc := rfl
@[simp] theorem takeTurn_turn (t : Turn) : (takeTurn t s).turn = t := rfl
@[simp] theorem takeTurn_schedule (t : Turn) : (takeTurn t s).schedule = s.schedule.tail := rfl
@[simp] theorem takeTurn_program (t : Turn) : (takeTurn t s).program = s.program := rfl
@[simp] theorem takeTurn_txWire (t : Turn) : (takeTurn t s).txWire = s.txWire := rfl
@[simp] theorem takeTurn_rxTaken (t : Turn) : (takeTurn t s).rxTaken = s.rxTaken := rfl
@[simp] theorem takeTurn_reads (t : Turn) : (takeTurn t s).reads = s.reads := rfl

end Sys2Proof.Machine
end

