-- ==== Sys2Proof/Laws/Ops.lean ====
section
/-! SUPPORT. What one step can do, said once: every next state of exec, and of the step, is one of the effects below. -/

namespace Sys2Proof.Machine

open Sys2Proof.Safety

/-- Everything one step can do to the state `s` in which its turn is taken. `wr off v` says what the host may be writing
on that turn, and `cmdLine o` whether it may be issuing the header command of opcode `o`. -/
inductive Effect (wr : Int → Word → Prop) (cmdLine : Octet → Prop) (s : State) : State → Prop where
  | pass : Effect wr cmdLine s s
  | read (r : Reg) : Effect wr cmdLine s (regRead r s)
  | poll : Effect wr cmdLine s (pollStatus s)
  | dataIn (v : Word) (host : wr 0x04 v) : Effect wr cmdLine s (writeDataIn v s)
  | statusWrite (v : Word) (host : wr 0x0C v) : Effect wr cmdLine s (writeStatus v s)
  | header (o : Octet) (host : cmdLine o) : Effect wr cmdLine s (sendHeaderCommand o s)
  | reject (v : Word) (host : wr 0x00 v) (busy : s.busy = true) : Effect wr cmdLine s (rejectCommand s)
  | illegal (v : Word) (host : wr 0x00 v) (idle : s.busy = false) (hill : ∀ i, decodeCommand v ≠ .ok i) :
      Effect wr cmdLine s (illegalCommand s)
  | accept (v : Word) (host : wr 0x00 v) (i : Instr) (c : BitVec 4) (m : BitVec 3) (idle : s.busy = false)
      (hv : decodeCommand v = .ok i) (hop : decodeOp c = .ok i) (hn : m.toNat = octets i) :
      Effect wr cmdLine s (acceptCommand c m s)
  | put (valid : txValid s = true) (ok : txAnswer s.turn = .ok) :
      Effect wr cmdLine s (putOctet (octetAt s.n.toNat s.k.toNat (txWord s)) s)
  | take (b : Octet) (ready : rxReady s = true) (ok : rxAnswer s.turn = .ok b) : Effect wr cmdLine s (takeOctet b s)
  | abort (waits : (txValid s = true ∧ txAnswer s.turn = .err) ∨ (rxReady s = true ∧ rxAnswer s.turn = .err)) :
      Effect wr cmdLine s (raiseTransportError s)
  | completeWrite (exec : s.seq = .exec) (full : s.k = s.n) (turn : s.turn = .block)
      (op : s.op = 1 ∨ s.op = 2 ∨ s.op = 3) : Effect wr cmdLine s (completeWrite s)
  | completeRead (exec : s.seq = .exec) (full : s.k = s.n) (turn : s.turn = .block)
      (op : s.op = 5 ∨ s.op = 6 ∨ s.op = 7) : Effect wr cmdLine s (completeRead s)
  | completeHeader (exec : s.seq = .exec) (full : s.k = s.n) (turn : s.turn = .block) (op : s.op = 8 ∨ s.op = 9) :
      Effect wr cmdLine s (completeHeader s)
  | completeCheck (exec : s.seq = .exec) (full : s.k = s.n) (turn : s.turn = .block) (op : s.op = 10) :
      Effect wr cmdLine s (completeCheck s)
  | reset (turn : s.turn = .reset) : Effect wr cmdLine s (resetBlock s)

/-- What the host must be doing for operation `i` to run on its turn: writing a word that is `i`. A header row is no
operation. -/
def HostIssues (wr : Int → Word → Prop) (i : Instr) : Prop :=
  (∃ v, wr 0x00 v ∧ decodeCommand v = .ok i) ∨ ∀ c, decodeOp c ≠ .ok i

variable {wr : Int → Word → Prop} {cmdLine : Octet → Prop}

/-- A command write is a rejection or an acceptance (10_state R29). -/
theorem commandWrite_effect (s : State) (i : Instr) (c : BitVec 4) (m : BitVec 3) (hop : decodeOp c = .ok i)
    (hn : m.toNat = octets i) (hw : HostIssues wr i) : Effect wr cmdLine s (commandWrite c m s) := by
  obtain ⟨v, hv, hd⟩ | h := hw
  · unfold commandWrite
    split
    · exact .reject v hv ‹_›
    · exact .accept v hv i c m (by simpa using ‹¬ s.busy = true›) hd hop hn
  · exact absurd hop (h c)

/-- A transmission step of an operation that is offering an octet. -/
theorem transmit_effect (s : State) (valid : txValid s = true) : Effect wr cmdLine s (transmit (txWord s) s) := by
  unfold transmit
  split
  · exact .put valid ‹_›
  · exact .abort (.inl ⟨valid, ‹_›⟩)
  · exact .pass

/-- A reception step of an operation that is asking for an octet. -/
theorem receive_effect (s : State) (ready : rxReady s = true) : Effect wr cmdLine s (receive s) := by
  unfold receive
  split
  · exact .take _ ready ‹_›
  · exact .abort (.inr ⟨ready, ‹_›⟩)
  · exact .pass

/-- The sequencer's step, from what its two parts do. -/
theorem sequencerStep_effect (s : State) (transfer complete : State → State)
    (ht : s.k.toNat < s.n.toNat → Effect wr cmdLine s (transfer s))
    (hc : s.k = s.n → s.turn = .block → Effect wr cmdLine s (complete s)) :
    Effect wr cmdLine s (sequencerStep transfer complete s) := by
  unfold sequencerStep
  split
  · exact ht ‹_›
  · split
    · exact hc (‹_ ∧ _›.1) (‹_ ∧ _›.2)
    · exact .pass

/-- One step of an operation, from what its parts do while it runs. -/
theorem runOperation_effect (s : State) (i : Instr) (c : BitVec 4) (m : BitVec 3) (transfer complete : State → State)
    (hop : decodeOp c = .ok i) (hn : m.toNat = octets i) (hw : s.turn = .host → HostIssues wr i)
    (ht : s.seq = .exec → s.op = c → s.k.toNat < s.n.toNat → Effect wr cmdLine s (transfer s))
    (hc : s.seq = .exec → s.op = c → s.k = s.n → s.turn = .block → Effect wr cmdLine s (complete s)) :
    Effect wr cmdLine s (runOperation c m transfer complete s) := by
  unfold runOperation
  split
  · exact commandWrite_effect s i c m hop hn (hw ‹_›)
  · split
    · have h := ‹s.seq = .exec ∧ s.op = c›
      exact sequencerStep_effect s _ _ (ht h.1 h.2) (hc h.1 h.2)
    · exact .pass

/-- A codec write's step: `c` is one of its three codes. -/
theorem writeOperation_effect (s : State) (i : Instr) (c : BitVec 4) (m : BitVec 3) (hop : decodeOp c = .ok i)
    (hn : m.toNat = octets i) (hw : s.turn = .host → HostIssues wr i) (hc : c = 1 ∨ c = 2 ∨ c = 3) :
    Effect wr cmdLine s (runOperation c m (transmit s.opnd) completeWrite s) := by
  refine runOperation_effect s i c m _ _ hop hn hw (fun he ho hk => ?_)
    (fun he ho hk ht => .completeWrite he hk ht (ho ▸ hc))
  have hword : txWord s = s.opnd := by rcases hc with rfl | rfl | rfl <;> simp [txWord, ho]
  rw [← hword]
  exact transmit_effect s (by rcases hc with rfl | rfl | rfl <;> simp [txValid, he, hk, ho, isTxOp])

/-- A codec read's step. -/
theorem readOperation_effect (s : State) (i : Instr) (c : BitVec 4) (m : BitVec 3) (hop : decodeOp c = .ok i)
    (hn : m.toNat = octets i) (hw : s.turn = .host → HostIssues wr i) (hc : c = 5 ∨ c = 6 ∨ c = 7) :
    Effect wr cmdLine s (runOperation c m receive completeRead s) :=
  runOperation_effect s i c m _ _ hop hn hw
    (fun he ho hk => receive_effect s (by rcases hc with rfl | rfl | rfl <;> simp [rxReady, he, hk, ho, isRxOp]))
    (fun he ho hk ht => .completeRead he hk ht (ho ▸ hc))

/-- Every instruction's meaning answers a next state, and that state is one of the effects. -/
theorem exec_effect (i : Instr) (s : State) (hw : s.turn = .host → HostIssues wr i)
    (hh : ∀ o, encode i = encodeHeader o → cmdLine o) : ∃ t, exec i s = .next t ∧ Effect wr cmdLine s t := by
  have hdr : ∀ o, encode i = encodeHeader o → Effect wr cmdLine s (sendHeaderCommand o s) := fun o h => .header o (hh o h)
  cases i
  case wrU8 => exact ⟨_, rfl, writeOperation_effect s .wrU8 1 1 rfl rfl hw (by simp)⟩
  case wrU16 => exact ⟨_, rfl, writeOperation_effect s .wrU16 2 2 rfl rfl hw (by simp)⟩
  case wrU32 => exact ⟨_, rfl, writeOperation_effect s .wrU32 3 4 rfl rfl hw (by simp)⟩
  case rdU8 => exact ⟨_, rfl, readOperation_effect s .rdU8 5 1 rfl rfl hw (by simp)⟩
  case rdU16 => exact ⟨_, rfl, readOperation_effect s .rdU16 6 2 rfl rfl hw (by simp)⟩
  case rdU32 => exact ⟨_, rfl, readOperation_effect s .rdU32 7 4 rfl rfl hw (by simp)⟩
  case buildHdr =>
    exact ⟨_, rfl, runOperation_effect s .buildHdr 8 0 _ _ rfl rfl hw (fun _ _ _ => .pass)
      (fun he ho hk ht => .completeHeader he hk ht (.inl ho))⟩
  case sendHdr =>
    refine ⟨_, rfl, runOperation_effect s .sendHdr 9 4 _ _ rfl rfl hw (fun he ho hk => ?_)
      (fun he ho hk ht => .completeHeader he hk ht (.inr ho))⟩
    have hword : txWord s = Machine.hdr (opcodeOf s.opnd) := by simp [txWord, ho]
    rw [← hword]
    exact transmit_effect s (by simp [txValid, he, hk, ho, isTxOp])
  case checkHdr =>
    exact ⟨_, rfl, runOperation_effect s .checkHdr 10 0 _ _ rfl rfl hw (fun _ _ _ => .pass)
      (fun he ho hk ht => .completeCheck he hk ht ho)⟩
  all_goals exact ⟨_, rfl, hdr _ rfl⟩

/-- What a fetch that is done, or the instruction it runs, does. -/
def FetchedEffect (wr : Int → Word → Prop) (cmdLine : Octet → Prop) (s : State) : Fetched → Prop
  | .run i s' => s' = s ∧ (s.turn = .host → HostIssues wr i) ∧ ∀ o, encode i = encodeHeader o → cmdLine o
  | .done (.next s') => Effect wr cmdLine s s'
  | .done (.fault _) => True
  | .done (.refused _) => True

theorem fetchCommand_effect (v : Word) (s : State) (hw : wr 0x00 v) : FetchedEffect wr cmdLine s (fetchCommand v s) := by
  unfold fetchCommand
  split
  · exact Effect.reject v hw ‹_›
  · split
    · rename_i i hd
      exact ⟨rfl, fun _ => .inl ⟨v, hw, hd⟩, fun o ho => absurd ho (encode_op_ne_header ((decodeCommand_ok_iff v i).1 hd).2 o)⟩
    · rename_i e hd
      exact Effect.illegal v hw (by simpa using ‹¬ s.busy = true›) (fun i hi => by rw [hd] at hi; cases hi)

/-- An admitted write: what it reaches is what the host may be writing. -/
theorem fetchWrite_effect (off : Int) (bits : Nat) (v : Word) (s : State) (hw : bits = 32 → wr off v) :
    FetchedEffect wr cmdLine s (fetchWrite off bits v s) := by
  unfold fetchWrite admitted
  by_cases hb : bits = 32
  · simp only [hb, if_true]
    by_cases h0 : off = 0x00
    · simp only [h0, if_true]; exact fetchCommand_effect v s (h0 ▸ hw hb)
    · by_cases h4 : off = 0x04
      · subst h4; exact Effect.dataIn v (hw hb)
      · by_cases h8 : off = 0x08
        · subst h8; exact Effect.pass
        · by_cases hC : off = 0x0C
          · subst hC; exact Effect.statusWrite v (hw hb)
          · simp only [h0, h4, h8, hC, if_false]; trivial
  · simp only [hb, if_false]; trivial

/-- A host line's move, from what it may be writing. -/
theorem fetchLine_effect (l : HostLine) (s : State)
    (hw : ∀ off v, (l = .write off 32 v ∨ (l = .writeLastRead off 32 ∧ s.reads.getLast? = some v)) → wr off v)
    (hc : ∀ w i, l = .wireHeader w → decodeHeader w = .ok i → cmdLine (headerW2 w)) :
    FetchedEffect wr cmdLine s (fetchLine l s) := by
  unfold fetchLine
  split
  · exact fetchWrite_effect _ _ _ s (fun hb => hw _ _ (.inl (by rw [hb])))
  · split
    · exact Effect.read _
    · trivial
  · split
    · rename_i v hv
      exact fetchWrite_effect _ _ _ s (fun hb => hw _ _ (.inr ⟨by rw [hb], hv⟩))
    · trivial
  · exact Effect.poll
  · rename_i w
    split
    · rename_i i hd
      exact ⟨rfl, fun _ => .inr (decodeHeader_not_op hd), fun o ho => opcode_of_header hd ho ▸ hc w i rfl hd⟩
    · trivial

theorem fetchBlock_effect (s : State) (ht : s.turn ≠ .host) : FetchedEffect wr cmdLine s (fetchBlock s) := by
  unfold fetchBlock
  split
  · split
    · exact ⟨rfl, fun h => absurd h ht, fun o ho => absurd ho (encode_op_ne_header ‹_› o)⟩
    · exact Effect.pass
  · exact Effect.pass

/-- The inversion of the step: a next state is an effect on the state in which a turn is taken. `p` is the host's program
then: as it was, or without its first line. -/
theorem step_effect {s s' : State} (h : step s = .next s') :
    ∃ t p, nextTurn s = some t ∧ (p = s.program ∨ (t = .host ∧ ∃ l, s.program = l :: p)) ∧
      Effect (fun off v => HostWrites off v s)
        (fun o => ∃ w i rest, AboutToIssue (.wireHeader w) rest s ∧ decodeHeader w = .ok i ∧ headerW2 w = o)
        { s with turn := t, schedule := s.schedule.tail, program := p } s' := by
  have close : ∀ b : State, ∀ f : Fetched, FetchedEffect (fun off v => HostWrites off v s)
        (fun o => ∃ w i rest, AboutToIssue (.wireHeader w) rest s ∧ decodeHeader w = .ok i ∧ headerW2 w = o) b f →
      (match f with | .run i x => exec i x | .done o => o) = .next s' →
      Effect (fun off v => HostWrites off v s)
        (fun o => ∃ w i rest, AboutToIssue (.wireHeader w) rest s ∧ decodeHeader w = .ok i ∧ headerW2 w = o) b s' := by
    intro b f hf hs
    cases f with
    | run i x =>
      obtain ⟨rfl, hw, hh⟩ := hf
      obtain ⟨t, ht, he⟩ := exec_effect i x hw hh
      simp only [ht] at hs
      cases hs; exact he
    | done o => simp only at hs; subst hs; exact hf
  unfold step fetch at h
  cases hn : nextTurn s with
  | none => simp [hn] at h
  | some t =>
    simp only [hn] at h
    by_cases ht : t = .host
    · subst ht
      have hf : fetchTurn (takeTurn .host s) = fetchHost (takeTurn .host s) := rfl
      rw [hf] at h
      cases hp : s.program with
      | nil =>
        have hh : fetchHost (takeTurn .host s) = .done (.next (takeTurn .host s)) := by simp [fetchHost, hp]
        rw [hh] at h
        refine ⟨.host, s.program, rfl, .inl hp, ?_⟩
        cases h; exact .pass
      | cons l rest =>
        have hh : fetchHost (takeTurn .host s) = fetchLine l { takeTurn .host s with program := rest } := by
          simp [fetchHost, hp]
        rw [hh] at h
        refine ⟨.host, rest, rfl, .inr ⟨rfl, l, rfl⟩, close _ _ (fetchLine_effect l _ ?_ ?_) h⟩
        · rintro off v (rfl | ⟨rfl, hv⟩)
          · exact ⟨hn, rest, .inl hp⟩
          · exact ⟨hn, rest, .inr ⟨hp, hv⟩⟩
        · rintro w i rfl hd
          exact ⟨w, i, rest, ⟨hp, hn⟩, hd, rfl⟩
    · refine ⟨t, s.program, rfl, .inl rfl, close (takeTurn t s) (fetchTurn (takeTurn t s)) ?_ h⟩
      cases t
      case host => exact absurd rfl ht
      case reset => exact Effect.reset rfl
      case hostInReset => trivial
      case secondHost => trivial
      all_goals exact fetchBlock_effect _ ht

end Sys2Proof.Machine
end

