-- ==== Sys2Proof/Laws/PerInstr.lean ====
section
/-! SUPPORT. Facts about instructions as syntax, one lemma per constructor: the word of each row is read back as the row. -/

namespace Sys2Proof.Laws.WordReadBack

/-- A row's word decodes to the row, and so does its numbering in the opcode table. -/
def Statement (i : Instr) : Prop :=
  i.wellFormed = true → decode (encode i) = .ok i ∧ decodeTableWord 32 (encode i).toNat = some i

theorem wrU8 : Statement .wrU8 := fun _ => by decide
theorem wrU16 : Statement .wrU16 := fun _ => by decide
theorem wrU32 : Statement .wrU32 := fun _ => by decide
theorem rdU8 : Statement .rdU8 := fun _ => by decide
theorem rdU16 : Statement .rdU16 := fun _ => by decide
theorem rdU32 : Statement .rdU32 := fun _ => by decide
theorem buildHdr : Statement .buildHdr := fun _ => by decide
theorem sendHdr : Statement .sendHdr := fun _ => by decide
theorem checkHdr : Statement .checkHdr := fun _ => by decide
theorem hdrStatus : Statement .hdrStatus := fun _ => by decide
theorem hdrGetVoltage : Statement .hdrGetVoltage := fun _ => by decide
theorem hdrRtcGet : Statement .hdrRtcGet := fun _ => by decide
theorem hdrRtcSet : Statement .hdrRtcSet := fun _ => by decide
theorem hdrMemRead : Statement .hdrMemRead := fun _ => by decide
theorem hdrMemWrite : Statement .hdrMemWrite := fun _ => by decide
theorem hdrExtendedStatus : Statement .hdrExtendedStatus := fun _ => by decide

end Sys2Proof.Laws.WordReadBack
end

