-- ==== Sys2Proof/Laws/Step.lean ====
section
/-! SUPPORT. The step by the kind of turn: what it comes to for each host line, for each turn of the running operation,
and for the others. -/

namespace Sys2Proof.Machine

open Sys2Proof.Safety

/-- What a fetch comes to. -/
def outcomeOf : Fetched → Host.Outcome State Fault Refusal
  | .run i s => exec i s
  | .done o => o

@[simp] theorem outcomeOf_run (i : Instr) (s : State) : outcomeOf (.run i s) = exec i s := rfl
@[simp] theorem outcomeOf_done (o : Host.Outcome State Fault Refusal) : outcomeOf (.done o) = o := rfl

/-- The step is the outcome of the fetch. -/
theorem step_eq (s : State) : step s = outcomeOf (fetch s) := by
  unfold step outcomeOf
  cases fetch s <;> rfl

/-- The first scheduled turn is the next one. -/
theorem nextTurn_cons {s : State} {t : Turn} {ts : List Turn} (h : s.schedule = t :: ts) : nextTurn s = some t := by
  simp [nextTurn, h]

/-- The state in which a host line is issued, field by field. -/
@[simp] theorem issued_fields (rest : List HostLine) (s : State) :
    (issued rest s).dataIn = s.dataIn ∧ (issued rest s).result = s.result ∧ (issued rest s).status = s.status ∧
    (issued rest s).seq = s.seq ∧ (issued rest s).op = s.op ∧ (issued rest s).opnd = s.opnd ∧
    (issued rest s).n = s.n ∧ (issued rest s).k = s.k ∧ (issued rest s).acc = s.acc ∧
    (issued rest s).turn = .host ∧ (issued rest s).schedule = s.schedule.tail ∧ (issued rest s).program = rest ∧
    (issued rest s).txWire = s.txWire ∧ (issued rest s).rxTaken = s.rxTaken ∧ (issued rest s).reads = s.reads ∧
    (issued rest s).busy = s.busy := by
  repeat' apply And.intro
  all_goals rfl

/-- The host's turn with a line to issue. -/
theorem step_issue {s : State} {l : HostLine} {rest : List HostLine} (h : AboutToIssue l rest s) :
    step s = outcomeOf (fetchLine l (issued rest s)) := by
  have hf : fetch s = fetchLine l (issued rest s) := by
    simp only [fetch, h.2, fetchTurn, fetchHost, takeTurn, h.1]
    rfl
  rw [step_eq, hf]

/-- The host's turn with a register write to issue, in either form. -/
theorem step_write {off : Int} {v : Word} {rest : List HostLine} {s : State} (h : AboutToWrite off v rest s) :
    step s = outcomeOf (fetchWrite off 32 v (issued rest s)) := by
  obtain h | ⟨h, hv⟩ := h
  · exact step_issue h
  · rw [step_issue h]
    simp [fetchLine, hv]

/-- A turn of a stream or of the block. -/
theorem step_block {s : State} {t : Turn} (hn : nextTurn s = some t) (hb : IsBlockTurn t) :
    step s = outcomeOf (fetchBlock (takeTurn t s)) := by
  have hf : fetch s = fetchBlock (takeTurn t s) := by
    cases t <;> first | exact absurd hb id | simp only [fetch, hn, fetchTurn, takeTurn]
  rw [step_eq, hf]

/-- A turn of a stream or of the block while an operation runs. -/
theorem step_running {s : State} {t : Turn} {i : Instr} (hn : nextTurn s = some t) (hb : IsBlockTurn t)
    (he : s.seq = .exec) (hi : decodeOp s.op = .ok i) : step s = exec i (takeTurn t s) := by
  rw [step_block hn hb]
  simp [fetchBlock, he, hi]

/-- A turn of a stream or of the block while none runs. -/
theorem step_idle {s : State} {t : Turn} (hn : nextTurn s = some t) (hb : IsBlockTurn t) (he : s.seq = .idle) :
    step s = .next (takeTurn t s) := by
  rw [step_block hn hb]
  simp [fetchBlock, he]

/-- A reset step. -/
theorem step_reset {s : State} (hn : nextTurn s = some .reset) : step s = .next (resetBlock (takeTurn .reset s)) := by
  simp only [step, fetch, hn, fetchTurn, takeTurn]

/-- The host's write of a legal word to an idle block. -/
theorem step_accept {s : State} {v : Word} {i : Instr} {rest : List HostLine}
    (h : AboutToWrite 0x00 v rest s) (hb : s.busy = false) (hd : decodeCommand v = .ok i) :
    step s = .next (acceptCommand (v.extractLsb' 0 4) (BitVec.ofNat 3 (octets i)) (issued rest s)) := by
  obtain ⟨-, h3⟩ := (decodeCommand_ok_iff v i).1 hd
  have hf : fetchWrite 0x00 32 v (issued rest s) = .run i (issued rest s) := by
    simp [fetchWrite, admitted, fetchCommand, hb, hd]
  rw [step_write h, hf, outcomeOf_run]
  cases i <;> simp [decodeOp_ok_iff] at h3 <;>
    simp [exec, execWrU8, execWrU16, execWrU32, execRdU8, execRdU16, execRdU32, execBuildHdr, execSendHdr, execCheckHdr,
      runOperation, commandWrite, hb, h3] <;> rfl

end Sys2Proof.Machine
end

