-- ==== Sys2Proof/Tests/Slice0.lean ====
section
/-! SUPPORT. The model's own tests. Expected values come from spec/ (30_encoding R70, R76; 40_codec and 41_framer
templates; 95_test_vectors V1 to V8), never from the model. The last part shows, for each statement with hypotheses, a
concrete state that meets them. -/

namespace Sys2Proof.Tests

open Sys2Proof Sys2Proof.Machine Sys2Proof.Safety

/-! ## Helper states -/

/-- The next state of an outcome, if it is one. -/
def after : Host.Outcome State Fault Refusal → Option State
  | .next s => some s
  | .fault _ => none
  | .refused _ => none

/-- The refusal of an outcome, if it is one. -/
def refusal : Host.Outcome State Fault Refusal → Option Refusal
  | .next _ => none
  | .fault _ => none
  | .refused r => some r

/-- The reset state with a host program and a schedule. -/
def hosting (program : List HostLine) (schedule : List Turn) : State :=
  { State.reset with program := program, schedule := schedule }

/-- A state in which operation `op` of `n` octets has moved `k`, on turn `turn`, which is also the next one. -/
def running (op : BitVec 4) (n k : BitVec 3) (opnd acc : Word) (turn : Turn) : State :=
  { State.reset with
    status := 0x00000001, seq := .exec, op := op, n := n, k := k, opnd := opnd, acc := acc, turn := turn, schedule := [turn] }

/-! ## WellFormed: one ill-formed term for each check -/

theorem smoke_instructions_are_well_formed :
    [Instr.wrU8, .wrU16, .wrU32, .rdU8, .rdU16, .rdU32, .buildHdr, .sendHdr, .checkHdr, .hdrStatus, .hdrGetVoltage,
      .hdrRtcGet, .hdrRtcSet, .hdrMemRead, .hdrMemWrite, .hdrExtendedStatus].all Instr.wellFormed = true := by decide

/-- V7, non-admitted accesses. -/
theorem smoke_accesses_are_checked :
    (HostLine.write 0x04 8 0).wellFormed = false ∧ (HostLine.write 0x02 32 0).wellFormed = false ∧
    (HostLine.write 0x10 32 0).wellFormed = false ∧ (HostLine.read (-4) 32).wellFormed = false ∧
    (HostLine.writeLastRead 0x04 64).wellFormed = false ∧ (HostLine.wireHeader 0x2BD411EE).wellFormed = false ∧
    (HostLine.write 0x0C 32 0).wellFormed = true := by decide

/-- The operand checks of R82, each at its bound. -/
theorem smoke_operands_are_checked :
    (AsmLine.wrU8 256).wellFormed = false ∧ (AsmLine.wrU8 255).wellFormed = true ∧
    (AsmLine.wrU16 65536).wellFormed = false ∧ (AsmLine.wrU32 4294967296).wellFormed = false ∧
    (AsmLine.hdrBuild 256).wellFormed = false ∧ (AsmLine.hdrSend 256).wellFormed = false ∧
    (AsmLine.hdrCheck 4294967296).wellFormed = false ∧ (AsmLine.w 0x04 4294967296).wellFormed = false ∧
    (AsmLine.desc 4294967296 0).wellFormed = false ∧ (AsmLine.desc 0 4294967296).wellFormed = false := by decide

/-! ## Decoding: words written out bit by bit -/

/-- R70: RSV, CLS, then DIR and WSEL. -/
theorem test_decode_codec_words :
    (decode 0b0000000000000000000000000000_0_0_01#32).toOption = some .wrU8 ∧
    (decode 0b0000000000000000000000000000_0_0_10#32).toOption = some .wrU16 ∧
    (decode 0b0000000000000000000000000000_0_0_11#32).toOption = some .wrU32 ∧
    (decode 0b0000000000000000000000000000_0_1_01#32).toOption = some .rdU8 ∧
    (decode 0b0000000000000000000000000000_0_1_10#32).toOption = some .rdU16 ∧
    (decode 0b0000000000000000000000000000_0_1_11#32).toOption = some .rdU32 := by decide

/-- R70: RSV, CLS, then HOP. -/
theorem test_decode_framer_words :
    (decode 0b0000000000000000000000000000_1_000#32).toOption = some .buildHdr ∧
    (decode 0b0000000000000000000000000000_1_001#32).toOption = some .sendHdr ∧
    (decode 0b0000000000000000000000000000_1_010#32).toOption = some .checkHdr := by decide

/-- R75, R76: w0, w1, w2, w3. -/
theorem test_decode_header_words :
    (decode 0b00101011_11010100_00010000_11101111#32).toOption = some .hdrStatus ∧
    (decode 0b00101011_11010100_00010011_11101100#32).toOption = some .hdrGetVoltage ∧
    (decode 0b00101011_11010100_00010100_11101011#32).toOption = some .hdrRtcGet ∧
    (decode 0b00101011_11010100_00010101_11101010#32).toOption = some .hdrRtcSet ∧
    (decode 0b00101011_11010100_00011001_11100110#32).toOption = some .hdrMemRead ∧
    (decode 0b00101011_11010100_00011010_11100101#32).toOption = some .hdrMemWrite ∧
    (decode 0b00101011_11010100_01000000_10111111#32).toOption = some .hdrExtendedStatus := by decide

/-- Rejected by name. V7 has the command words, V6 the headers. -/
theorem test_decode_rejects_by_name :
    decodeCommand 0x0 = .error .reservedWidth ∧ decodeCommand 0x4 = .error .reservedWidth ∧
    decodeCommand 0xB = .error .reservedFramerOp ∧ decodeCommand 0xF = .error .reservedFramerOp ∧
    decodeCommand 0x11 = .error .reservedBits ∧ decodeCommand 0x80000001 = .error .reservedBits ∧
    decodeHeader 0x2AD510EF = .error .badPreamble ∧ decodeHeader 0x2BD510EF = .error .badPreambleComplement ∧
    decodeHeader 0x2BD410EE = .error .badOpcodeComplement ∧ decodeHeader 0x2BD4FF00 = .error .unknownOpcode ∧
    decodeWire [0x2B, 0xD4, 0x10] = .error .shortHeader ∧
    decodeWire [0x2B, 0xD4, 0x1A, 0xE5, 0x01] = .ok (.hdrMemWrite, [0x01]) := by
  decide

theorem test_table_lengths :
    decodeTableWord 32 0x2BD440BF = some .hdrExtendedStatus ∧ decodeTableWord 4 0x1 = some .wrU8 ∧
    decodeTableWord 33 0x1 = none ∧ decodeTableWord 4 0x11 = none := by decide

/-! ## The instructions, one step each -/

/-- V1: 0x12345678 sends 78. -/
theorem test_wrU8_sends_the_low_octet :
    (after (exec .wrU8 (running 1 1 0 0x12345678 0 (.txSink true false)))).map (·.txWire) = some [0x78] := by decide

/-- V1: STATUS 0x00000002, RESULT untouched. -/
theorem test_wrU8_completes :
    (after (exec .wrU8 (running 1 1 1 0xA5 0 .block))).map (fun t => (t.status, t.result, t.seq)) =
      some (0x00000002, 0, .idle) := by decide

/-- V1: 0xDEAD1234 sends 12 first. -/
theorem test_wrU16_sends_the_high_octet_first :
    (after (exec .wrU16 (running 2 2 0 0xDEAD1234 0 (.txSink true false)))).map (·.txWire) = some [0x12] := by decide

/-- V3: with BE on the wire, the error leaves it there; STATUS 0x00013F04 from flags 0x3F00, RESULT kept. -/
theorem test_wrU16_aborts :
    (after (exec .wrU16 { running 2 2 1 0xBEEF 0 (.txSink true true) with
        status := 0x00003F01, result := 0xCAFEF00D, txWire := [0xBE] })).map
      (fun t => (t.status, t.result, t.txWire, t.seq)) = some (0x00013F04, 0xCAFEF00D, [0xBE], .idle) := by decide

/-- V1: the second octet of 12 34 56 78. -/
theorem test_wrU32_sends_its_second_octet :
    (after (exec .wrU32 (running 3 4 1 0x12345678 0 (.txSink true false)))).map (fun t => (t.txWire, t.k)) =
      some ([0x34], 2) := by decide

/-- R29: accept copies DATA_IN and clears the last outcome. -/
theorem test_wrU32_is_accepted :
    (after (exec .wrU32 { State.reset with dataIn := 0x12345678, status := 0x00003F0C, acc := 7 })).map
      (fun t => (t.opnd, t.status, t.op, t.n, t.k, t.acc)) = some (0x12345678, 0x00003F01, 3, 4, 0, 0) := by decide

/-- V2: FF reads as 0x000000FF, replacing all of RESULT. -/
theorem test_rdU8_zero_extends :
    (after (exec .rdU8 { running 5 1 1 0 0xFF .block with result := 0xFFFFFFFF })).map (fun t => (t.result, t.status)) =
      some (0x000000FF, 0x00000002) := by decide

/-- R43: the error wins over the octet on the same edge. -/
theorem test_rdU8_error_wins :
    (after (exec .rdU8 (running 5 1 0 0 0 (.rxSource true true 0x7F)))).map (fun t => (t.status, t.rxTaken)) =
      some (0x00010004, []) := by decide

/-- V2: A5 00 reads as 0x0000A500. -/
theorem test_rdU16_shifts_the_first_octet_up :
    (after (exec .rdU16 (running 6 2 1 0 0xA5 (.rxSource true false 0x00)))).map (fun t => (t.acc, t.k)) =
      some (0x0000A500, 2) := by decide

/-- V2: the last octet of 5A 05 18 00. -/
theorem test_rdU32_takes_its_last_octet :
    (after (exec .rdU32 (running 7 4 3 0 0x5A0518 (.rxSource true false 0x00)))).map (fun t => (t.acc, t.rxTaken)) =
      some (0x5A051800, [0x00]) := by decide

/-- V3: three octets consumed and lost. -/
theorem test_rdU32_aborts :
    (after (exec .rdU32 { running 7 4 3 0 0x5A0518 (.rxSource false true 0) with
        status := 0x00003F01, result := 0xCAFEF00D })).map (fun t => (t.status, t.result)) =
      some (0x00013F04, 0xCAFEF00D) := by decide

/-- V4: 0x12345640. -/
theorem test_buildHdr_truncates_its_opcode :
    (after (exec .buildHdr (running 8 0 0 0x12345640 0 .block))).map (fun t => (t.result, t.status)) =
      some (0x2BD440BF, 0x00003F02) := by decide

/-- V4: 0xFF is in no command set. -/
theorem test_buildHdr_reports_an_unknown_opcode :
    (after (exec .buildHdr (running 8 0 0 0xFF 0 .block))).map (fun t => (t.result, t.status)) =
      some (0x2BD4FF00, 0x00003702) := by decide

/-- V5: EA after 2B D4 15. -/
theorem test_sendHdr_sends_the_complement_last :
    (after (exec .sendHdr (running 9 4 3 0x12345615 0 (.txSink true false)))).map (·.txWire) = some [0xEA] := by decide

/-- V5: the end state of opcode 0x1A. -/
theorem test_sendHdr_completes :
    (after (exec .sendHdr (running 9 4 4 0x1A 0 .block))).map (fun t => (t.result, t.status)) =
      some (0x2BD41AE5, 0x00003F02) := by decide

/-- V6: a bad opcode complement. -/
theorem test_checkHdr_bad_complement :
    (after (exec .checkHdr { running 0xA 0 0 0x2BD410EE 0 .block with status := 0x00003F01, result := 0xCAFEF00D })).map
      (fun t => (t.result, t.status)) = some (0xCAFEF00D, 0x00000B02) := by decide

/-- V6: well-formed with the wrong sentinel. -/
theorem test_checkHdr_wrong_sentinel :
    (after (exec .checkHdr (running 0xA 0 0 0x2AD510EF 0 .block))).map (·.status) = some 0x00001E02 := by decide

/-- R83: each header command is `hdr.send` of its opcode. -/
theorem test_header_commands_write_their_opcode :
    [Instr.hdrStatus, .hdrGetVoltage, .hdrRtcGet, .hdrRtcSet, .hdrMemRead, .hdrMemWrite, .hdrExtendedStatus].map
      (fun i => (after (exec i State.reset)).map (·.dataIn)) =
    [some 0x10, some 0x13, some 0x14, some 0x15, some 0x19, some 0x1A, some 0x40] := by decide

/-- P1: its second and third lines are left to be issued. -/
theorem test_header_command_leaves_its_command_write :
    (after (exec .hdrStatus State.reset)).map (·.program) = some [.write 0x00 32 0x00000009, .wait] := by decide

/-! ## The register port, one step each -/

/-- V7: illegal commands over header flags 0x3F02. -/
theorem test_illegal_command_keeps_the_flags :
    (after (step { hosting [.write 0x00 32 0x0] [.host] with status := 0x00003F02 })).map (fun t => (t.status, t.seq)) =
      some (0x00003F08, .idle) := by decide

/-- V7: REJ, not ILL, while busy. -/
theorem test_busy_write_is_rejected :
    (after (step { running 9 4 0 0x10 0 .host with program := [.write 0x00 32 0x0] })).map (fun t => (t.status, t.op)) =
      some (0x00020001, 9) := by decide

/-- V7: only bits 16 and 17 of a STATUS write act. -/
theorem test_status_write_clears_sticky_bits :
    (after (step { hosting [.write 0x0C 32 0xFFFFFFFF] [.host] with status := 0x00033F06 })).map (·.status) =
      some 0x00003F06 := by decide

/-- V7: RESULT ignores writes; CMD reads 0. -/
theorem test_result_ignores_writes_and_cmd_reads_zero :
    (after (step { hosting [.write 0x08 32 0x12345678] [.host] with result := 0xCAFEF00D })).map (·.result) =
      some 0xCAFEF00D ∧
    (after (step { hosting [.read 0x00 32] [.host] with dataIn := 0x55 })).map (·.reads) = some [0] := by decide

/-- V7: refused accesses. P4: `hdr.check.result` writes what it read. -/
theorem test_accesses_are_refused :
    refusal (step (hosting [.write 0x04 8 0] [.host])) = some .accessNotAdmitted ∧
    refusal (step (hosting [.read 0x02 32] [.host])) = some .accessNotAdmitted ∧
    refusal (step (hosting [.read 0x10 32] [.host])) = some .accessNotAdmitted ∧
    (after (step { hosting [.writeLastRead 0x04 32] [.host] with reads := [0x2BD419E6] })).map (·.dataIn) =
      some 0x2BD419E6 := by decide

/-- V8: reset in the middle of WR_U32 after 12 34. -/
theorem test_reset_clears_a_running_operation :
    (after (step { running 3 4 2 0x12345678 0 .reset with txWire := [0x12, 0x34] })).map
      (fun t => (t.status, t.seq, t.k, t.txWire)) = some (0, .idle, 0, [0x12, 0x34]) := by decide

/-- E4, E3. -/
theorem test_reply_verdicts :
    statusTrusted 0xA500 = true ∧ statusTrusted 0x1234 = false ∧ statusTrusted 0x00A5 = false ∧
    extendedTrusted 0x5A051800 = true ∧ extendedDevice 0x5A052500 = .core ∧ extendedDevice 0x5A05FF00 = .unknown ∧
    extendedTrusted 0x5A061800 = false ∧ extendedDevice 0x5A061800 = .pro := by decide

/-- P2: the request of a MemWrite of DE AD to the FIFO. -/
theorem test_fifo_write_request :
    requestOctets (fifoWrite [0xDE, 0xAD]) =
      [0x2B, 0xD4, 0x1A, 0xE5, 0x01, 0x81, 0x00, 0x00, 0x00, 0x00, 0x00, 0x02, 0x00, 0xDE, 0xAD] := by decide

/-- P1: the encoding of a Status query. -/
theorem test_status_program :
    (commandProgram .status).flatMap expansion =
      [.write 0x04 32 0x10, .write 0x00 32 0x9, .wait, .write 0x00 32 0x6, .wait, .read 0x08 32] := by decide

/-! ## Witnesses: concrete states that meet the statements' hypotheses -/

/-- A transmitting state in the middle of WR_U32 meets the invariant. -/
theorem witness_transmitting_inv : Inv (running 3 4 2 0x12345678 0 (.txSink true false)) where
  busy_iff_exec := by decide
  one_outcome := by decide
  no_outcome_while_busy := fun _ => by decide
  reserved_zero := by decide
  hwf_eq := by decide
  hvalid_eq := by decide
  running_op := fun _ => ⟨.wrU32, rfl, rfl⟩
  k_le_n := by decide
  n_le_four := by decide

/-- A receiving state in the middle of RD_U32 meets the invariant. -/
theorem witness_receiving_inv : Inv (running 7 4 2 0 0x5A05 (.rxSource true false 0x18)) where
  busy_iff_exec := by decide
  one_outcome := by decide
  no_outcome_while_busy := fun _ => by decide
  reserved_zero := by decide
  hwf_eq := by decide
  hvalid_eq := by decide
  running_op := fun _ => ⟨.rdU32, rfl, rfl⟩
  k_le_n := by decide
  n_le_four := by decide

/-- The invariant says nothing about the turns or the program, so the same states with other turns meet it too. -/
theorem witness_inv_of_turns {s : State} (h : Inv s) (turn : Turn) (schedule : List Turn) (program : List HostLine) :
    Inv { s with turn := turn, schedule := schedule, program := program } :=
  ⟨h.busy_iff_exec, h.one_outcome, h.no_outcome_while_busy, h.reserved_zero, h.hwf_eq, h.hvalid_eq, h.running_op,
    h.k_le_n, h.n_le_four⟩

/-- Every instruction answers a next state in every state, so the frame's hypothesis is met for each, on both kinds of
turn. -/
theorem witness_exec_answers (i : Instr) (s : State) : ∃ t, exec i s = .next t := by
  cases i <;> exact ⟨_, rfl⟩

/-- ResetClearsTheBlock, ResetKeepsTheEnvironment, ResetEndsAnOperationWithoutOutcome, SecondHostIsRefused. -/
theorem witness_reset_turns :
    (running 3 4 2 0x12345678 0 .reset).seq = .exec ∧ nextTurn (running 3 4 2 0x12345678 0 .reset) = some .reset ∧
    nextTurn (hosting [] [.hostInReset]) = some .hostInReset ∧ nextTurn (hosting [] [.secondHost]) = some .secondHost := by
  decide

/-- OnlyAlignedWordAccessesAreAdmitted: the four offsets, and accesses just outside. -/
theorem witness_accesses :
    (∀ off ∈ [(0x00 : Int), 0x04, 0x08, 0x0C],
      AboutToIssue (.write off 32 1) [] (hosting [.write off 32 1] [.host]) ∧
      AboutToIssue (.read off 32) [] (hosting [.read off 32] [.host]) ∧
      AboutToIssue (.writeLastRead off 32) [] { hosting [.writeLastRead off 32] [.host] with reads := [1] }) ∧
    (∀ p ∈ [((0x04 : Int), 8), (0x02, 32), (0x10, 32), (-4, 32), (0x0C, 64)],
      ¬ (p.2 = 32 ∧ p.1 ∈ [(0x00 : Int), 0x04, 0x08, 0x0C]) ∧
      AboutToIssue (.write p.1 p.2 1) [] (hosting [.write p.1 p.2 1] [.host]) ∧
      AboutToIssue (.read p.1 p.2) [] (hosting [.read p.1 p.2] [.host]) ∧
      AboutToIssue (.writeLastRead p.1 p.2) [] { hosting [.writeLastRead p.1 p.2] [.host] with reads := [1] }) := by
  refine ⟨fun off _ => ⟨⟨rfl, rfl⟩, ⟨rfl, rfl⟩, rfl, rfl⟩, fun p hp => ⟨?_, ⟨rfl, rfl⟩, ⟨rfl, rfl⟩, rfl, rfl⟩⟩
  revert p
  decide

/-- ReadsHaveNoSideEffect, the read clauses of DataInIsPlainAndUnreadByARunningOperation and
ResultIsWrittenOnlyByCompletion, and WaitPollsUntilNotBusy in both outcomes of the poll. -/
theorem witness_reads :
    AboutToIssue (.read 0x00 32) [] (hosting [.read 0x00 32] [.host]) ∧
    AboutToIssue (.read 0x04 32) [] (hosting [.read 0x04 32] [.host]) ∧
    AboutToIssue (.read 0x08 32) [] (hosting [.read 0x08 32] [.host]) ∧
    AboutToIssue (.read 0x0C 32) [] (hosting [.read 0x0C 32] [.host]) ∧
    AboutToIssue .wait [] (hosting [.wait] [.host]) ∧
    AboutToIssue .wait [] { running 9 4 0 0x10 0 .host with program := [.wait] } := by
  repeat' apply And.intro
  all_goals rfl

/-- CommandWriteIsJudgedByBusyThenLegality and StepRunsTheDecodedInstruction, clause 1: rejected, illegal and legal, in
both forms of the write. -/
theorem witness_command_writes :
    (AboutToWrite 0x00 0x1 [] { running 9 4 0 0x10 0 .host with program := [.write 0x00 32 0x1] } ∧
      (running 9 4 0 0x10 0 .host).busy = true) ∧
    (AboutToWrite 0x00 0x4 [] (hosting [.write 0x00 32 0x4] [.host]) ∧ State.reset.busy = false ∧
      ∀ i, decodeCommand 0x4 ≠ .ok i) ∧
    (AboutToWrite 0x00 0xA [] (hosting [.write 0x00 32 0xA] [.host]) ∧ decodeCommand 0xA = .ok .checkHdr) ∧
    (AboutToWrite 0x00 0x1 [] { hosting [.writeLastRead 0x00 32] [.host] with reads := [0x1] } ∧
      decodeCommand 0x1 = .ok .wrU8) := by
  refine ⟨⟨.inl ⟨rfl, rfl⟩, rfl⟩, ⟨.inl ⟨rfl, rfl⟩, rfl, ?_⟩, ⟨.inl ⟨rfl, rfl⟩, rfl⟩, .inr ⟨⟨rfl, rfl⟩, rfl⟩, rfl⟩
  intro i
  cases i <;> decide

/-- DataInIsPlainAndUnreadByARunningOperation, ResultIsWrittenOnlyByCompletion and StatusWriteClearsOnlyStickyBits: the
other writes, in both forms. -/
theorem witness_other_writes :
    AboutToWrite 0x04 0x55 [] (hosting [.write 0x04 32 0x55] [.host]) ∧
    AboutToWrite 0x04 0x55 [] { hosting [.writeLastRead 0x04 32] [.host] with reads := [0x55] } ∧
    AboutToWrite 0x08 0x55 [] (hosting [.write 0x08 32 0x55] [.host]) ∧
    AboutToWrite 0x0C 0x30000 [] (hosting [.write 0x0C 32 0x30000] [.host]) := by
  refine ⟨.inl ⟨rfl, rfl⟩, .inr ⟨⟨rfl, rfl⟩, rfl⟩, .inl ⟨rfl, rfl⟩, .inl ⟨rfl, rfl⟩⟩

/-- The third clause of DataInIsPlainAndUnreadByARunningOperation, StepRunsTheDecodedInstruction clause 3 and
WireGrowsOnlyByOfferedOctets: a running operation on a sink's turn. -/
theorem witness_running_turn :
    (running 3 4 2 0x12345678 0 (.txSink true false)).seq = .exec ∧
    nextTurn (running 3 4 2 0x12345678 0 (.txSink true false)) = some (.txSink true false) ∧
    IsBlockTurn (.txSink true false) ∧ decodeOp (running 3 4 2 0x12345678 0 (.txSink true false)).op = .ok .wrU32 ∧
    ∃ t, step (running 3 4 2 0x12345678 0 (.txSink true false)) = .next t := ⟨rfl, rfl, trivial, rfl, _, rfl⟩

/-- ResultIsWrittenOnlyByCompletion, clause 3: a read's completion changes RESULT. -/
theorem witness_result_changes :
    ∃ t, step (running 5 1 1 0 0xFF .block) = .next t ∧ t.result ≠ (running 5 1 1 0 0xFF .block).result :=
  ⟨_, rfl, by decide⟩

/-- EveryCommandWordIsOneOperationOrIllegal and FetchWordIsTheNextInstruction. -/
theorem witness_decoded_words :
    decodeCommand 0x1 = .ok .wrU8 ∧ decodeCommand 0xA = .ok .checkHdr ∧ State.reset.busy = false ∧
    decodeTableWord 32 0x1 = some .wrU8 ∧ decodeTableWord 32 0x2BD440BF = some .hdrExtendedStatus :=
  ⟨rfl, rfl, rfl, by decide, by decide⟩

/-- StepRunsTheDecodedInstruction clause 2, HeaderLineIsItsExpansion. -/
theorem witness_header_line :
    AboutToIssue (.wireHeader 0x2BD410EF) [] (hosting [.wireHeader 0x2BD410EF] [.host]) ∧
    decodeHeader 0x2BD410EF = .ok .hdrStatus ∧ encode .hdrStatus = 0x2BD410EF := ⟨⟨rfl, rfl⟩, rfl, by decide⟩

/-- The nine statements of one operation each, accepting clause. -/
theorem witness_operations_accept : State.reset.turn = .host ∧ State.reset.busy = false := by decide

/-- The nine statements of one operation each, running clauses: octets at both ends, and completion. -/
theorem witness_operations_run :
    ([((1 : BitVec 4), (1 : BitVec 3)), (2, 2), (3, 4), (9, 4)].all fun c =>
      [(0 : BitVec 3), c.2 - 1].all fun k => [Turn.txSink true false, .txSink false false, .txSink true true].all fun t =>
        let s := running c.1 c.2 k 0x12345678 0 t
        decide (s.seq = .exec ∧ s.op = c.1 ∧ s.n = c.2 ∧ s.k = k ∧ s.turn = t)) = true ∧
    ([((5 : BitVec 4), (1 : BitVec 3)), (6, 2), (7, 4)].all fun c =>
      [(0 : BitVec 3), c.2 - 1].all fun k =>
        [Turn.rxSource true false 0xA5, .rxSource false false 0, .rxSource true true 0].all fun t =>
          let s := running c.1 c.2 k 0 0 t
          decide (s.seq = .exec ∧ s.op = c.1 ∧ s.n = c.2 ∧ s.k = k ∧ s.turn = t)) = true ∧
    ([((1 : BitVec 4), (1 : BitVec 3)), (2, 2), (3, 4), (5, 1), (6, 2), (7, 4), (8, 0), (9, 4), (0xA, 0)].all fun c =>
      let s := running c.1 c.2 c.2 0x12345678 0 .block
      decide (s.seq = .exec ∧ s.op = c.1 ∧ s.n = c.2 ∧ s.k = c.2 ∧ s.turn = .block)) = true := by decide

/-- HeaderCommandsIssueHdrSend and HeaderLineIsItsExpansion name each header command. -/
theorem witness_header_commands :
    ((Instr.hdrExtendedStatus, 0x40#32) ∈ [(Instr.hdrStatus, 0x10#32), (.hdrGetVoltage, 0x13#32), (.hdrRtcGet, 0x14#32),
      (.hdrRtcSet, 0x15#32), (.hdrMemRead, 0x19#32), (.hdrMemWrite, 0x1A#32), (.hdrExtendedStatus, 0x40#32)]) ∧
    ((Instr.hdrStatus, AsmLine.cmdStatus) ∈ [(Instr.hdrStatus, AsmLine.cmdStatus), (.hdrGetVoltage, .cmdGetVoltage),
      (.hdrRtcGet, .cmdRtcGet), (.hdrRtcSet, .cmdRtcSet), (.hdrMemRead, .cmdMemRead), (.hdrMemWrite, .cmdMemWrite),
      (.hdrExtendedStatus, .cmdExtStatus)]) := by decide

/-- TxPortOffersTheCurrentOctet and EveryStepKeepsTheInvariant: an offering state with each kind of turn. -/
theorem witness_offering :
    txValid (running 3 4 2 0x12345678 0 (.txSink true false)) = true ∧
    (∃ t, step (running 3 4 2 0x12345678 0 (.txSink false false)) = .next t) ∧
    (∃ t, step (running 3 4 2 0x12345678 0 (.txSink true true)) = .next t) ∧
    (∃ t, step (running 3 4 2 0x12345678 0 .reset) = .next t) := ⟨by decide, ⟨_, rfl⟩, ⟨_, rfl⟩, _, rfl⟩

/-- RxPortTakesOnlyWhatWasAsked: a state that asks, and a step that takes. -/
theorem witness_asking :
    rxReady (running 7 4 2 0 0x5A05 (.rxSource true false 0x18)) = true ∧
    nextTurn (running 7 4 2 0 0x5A05 (.rxSource true false 0x18)) = some (.rxSource true false 0x18) ∧
    ∃ t, step (running 7 4 2 0 0x5A05 (.rxSource true false 0x18)) = .next t ∧ t.rxTaken ≠ [] :=
  ⟨by decide, rfl, _, rfl, by decide⟩

/-- A stream error on the sink, and one on the source. -/
theorem witness_aborts :
    Aborts (running 3 4 2 0x12345678 0 (.txSink true true)) ∧ Aborts (running 7 4 2 0 0x5A05 (.rxSource false true 0)) ∧
    (∃ t, step (running 3 4 2 0x12345678 0 (.txSink true true)) = .next t ∧ t.desync = true ∧ t.busy = false) :=
  ⟨.inl ⟨by decide, true, rfl⟩, .inr ⟨by decide, false, 0, rfl⟩, _, rfl, by decide, by decide⟩

/-- StreamErrorsAreSampledOnlyWhileWaiting, clauses 2 and 3: errors on a stream that is not waited on. -/
theorem witness_ignored_errors :
    txValid (running 7 4 2 0 0 (.txSink true true)) = false ∧
    nextTurn (running 7 4 2 0 0 (.txSink true true)) = some (.txSink true true) ∧
    rxReady (running 3 4 4 0 0 (.rxSource true true 0)) = false ∧
    nextTurn (running 3 4 4 0 0 (.rxSource true true 0)) = some (.rxSource true true 0) := by decide

/-- WaitEndsOnlyByStreamOrReset, clause 1; its clause 2 is met by witness_transmitting_inv and witness_offering, clauses 3
and 4 by witness_idle_turns. -/
theorem witness_waiting :
    (running 3 4 2 0 0 (.txSink false false)).seq = .exec ∧
    (running 3 4 2 0 0 (.txSink false false)).k.toNat < (running 3 4 2 0 0 (.txSink false false)).n.toNat ∧
    nextTurn (running 3 4 2 0 0 (.txSink false false)) = some (.txSink false false) ∧ IsBlockTurn (.txSink false false) ∧
    txAnswer (.txSink false false) = .noAnswer ∧ rxAnswer (.txSink false false) = .noAnswer :=
  ⟨rfl, by decide, rfl, trivial, rfl, rfl⟩

/-- WaitEndsOnlyByStreamOrReset, clauses 3 and 4, and ExactlyOneOutcomeIsReported, clause 4: an idle block that reports
DONE on its own turn, on the turns of its streams and on the host's turn with nothing to issue. -/
theorem witness_idle_turns :
    let s : Turn → State := fun t => { hosting [] [t] with status := 0x2 }
    (∀ t ∈ [Turn.block, .txSink true true, .rxSource true false 0x55],
      (s t).seq = .idle ∧ nextTurn (s t) = some t ∧ IsBlockTurn t) ∧
    nextTurn (s .host) = some .host ∧ (s .host).program = [] ∧
    (∀ t ∈ [Turn.block, .txSink true true, .rxSource true false 0x55, .host],
      (s t).doneBit = true ∧ (∃ u, step (s t) = .next u) ∧ ¬ Completes (s t) ∧ ¬ Aborts (s t) ∧
      nextTurn (s t) ≠ some .reset ∧ ¬ ∃ v, HostWrites 0x00 v (s t)) := by
  refine ⟨fun t h => ⟨rfl, rfl, ?_⟩, rfl, rfl, fun t h => ⟨?_, ?_, ?_, ?_, ?_, ?_⟩⟩
  · fin_cases h <;> trivial
  · simp [State.doneBit]
  · fin_cases h <;> exact ⟨_, rfl⟩
  · rintro ⟨h, -⟩; cases h
  · rintro (⟨h, -⟩ | ⟨h, -⟩) <;> cases h
  · fin_cases h <;> decide
  · rintro ⟨v, -, rest, h | ⟨h, -⟩⟩ <;> cases h

/-- NothingLeftToDoIsStuck: idle, and stalled. -/
theorem witness_nothing_left :
    State.reset.schedule = [] ∧ State.reset.program = [] ∧ State.reset.seq = .idle ∧
    ({ running 3 4 2 0 0 .block with schedule := [] } : State).program = [] ∧
    (running 3 4 2 0 0 .block).k ≠ (running 3 4 2 0 0 .block).n := by decide

/-- CompletionDeliversAndReports: each of the nine operations about to complete. -/
theorem witness_completions :
    ∀ c ∈ [((1 : BitVec 4), (1 : BitVec 3), Instr.wrU8), (2, 2, .wrU16), (3, 4, .wrU32), (5, 1, .rdU8), (6, 2, .rdU16),
        (7, 4, .rdU32), (8, 0, .buildHdr), (9, 4, .sendHdr), (0xA, 0, .checkHdr)],
      let s := running c.1 c.2.1 c.2.1 0x10 0 .block
      (s.seq = .exec ∧ s.k = s.n ∧ nextTurn s = some .block) ∧ (decodeOp s.op).toOption = some c.2.2 := by decide

/-- HeaderFlagsChangeOnlyByHeaderCompletion: a completion that changes bit 8, and a reset that does. -/
theorem witness_flags_change :
    (∃ t, step (running 8 0 0 0x10 0 .block) = .next t ∧
      t.status.getLsbD 8 ≠ (running 8 0 0 0x10 0 .block).status.getLsbD 8) ∧
    (∃ t, step { running 8 0 0 0x10 0 .reset with status := 0x00003F01 } = .next t ∧ t.status.getLsbD 8 ≠ true) :=
  ⟨⟨_, rfl, by decide⟩, _, rfl, by decide⟩

/-- DesyncIsSetByAbortAndSticky and RejIsSetByRejectionAndSticky, clearing clauses: a host write, and reset. -/
theorem witness_sticky_bits_clear :
    (∃ t, step { hosting [.write 0x0C 32 0x30000] [.host] with status := 0x00030002 } = .next t ∧
      t.desync = false ∧ t.rej = false) ∧
    (∃ t, step { hosting [] [.reset] with status := 0x00030002 } = .next t ∧ t.desync = false ∧ t.rej = false) :=
  ⟨⟨_, rfl, by decide, by decide⟩, _, rfl, by decide, by decide⟩

/-- RejIsSetByRejectionAndSticky, setting clauses. -/
theorem witness_rejection :
    HostWrites 0x00 0x1 { running 9 4 0 0x10 0 .host with program := [.write 0x00 32 0x1] } ∧
    ∃ t, step { running 9 4 0 0x10 0 .host with program := [.write 0x00 32 0x1] } = .next t ∧ t.rej = true :=
  ⟨⟨rfl, [], .inl rfl⟩, _, rfl, by decide⟩

/-- BusyFollowsTheSequencer: BUSY rises on an accepted command and falls on a completion. -/
theorem witness_busy_changes :
    (∃ t, step (hosting [.write 0x00 32 0x1] [.host]) = .next t ∧ t.busy = true) ∧
    (∃ t, step (running 1 1 1 0 0 .block) = .next t ∧ (running 1 1 1 0 0 .block).busy = true ∧ t.busy = false) :=
  ⟨⟨_, rfl, by decide⟩, _, rfl, by decide, by decide⟩

/-- ExactlyOneOutcomeIsReported: a completion, an abort and a host command write, each from an invariant state. -/
theorem witness_outcomes :
    Completes (running 3 4 4 0x12345678 0 .block) ∧ decodeOp (running 3 4 4 0x12345678 0 .block).op = .ok .wrU32 ∧
    Aborts (running 3 4 2 0x12345678 0 (.txSink true true)) ∧
    HostWrites 0x00 0x0 (hosting [.write 0x00 32 0x0] [.host]) ∧ State.reset.busy = false ∧
    ∃ t, step (hosting [.write 0x00 32 0x0] [.host]) = .next t ∧ t.ill = true :=
  ⟨⟨rfl, rfl, rfl⟩, rfl, .inl ⟨by decide, true, rfl⟩, ⟨rfl, [], .inl rfl⟩, rfl, _, rfl, by decide⟩

/-- DataInChangesOnlyByTheHost: by a write, by a header command and by reset. -/
theorem witness_data_in_changes :
    (∃ t, step (hosting [.write 0x04 32 0x55] [.host]) = .next t ∧ t.dataIn ≠ 0) ∧
    (∃ t, step (hosting [.wireHeader 0x2BD410EF] [.host]) = .next t ∧ t.dataIn = 0x10) ∧
    (∃ t, step { hosting [] [.reset] with dataIn := 0x55 } = .next t ∧ t.dataIn ≠ 0x55) :=
  ⟨⟨_, rfl, by decide⟩, ⟨_, rfl, by decide⟩, _, rfl, by decide⟩

/-- SingleBitFlipIsDetected: clause 1 at the ends of its two ranges of bits, clause 2 at the ends of its range. -/
theorem witness_valid_header :
    ((headerFlags 0x2BD410EF).hvalid = true ∧ (headerFlags 0x2BD4FF00).hvalid = true) ∧
    ((0 < 32 ∧ 0 < 16) ∧ 15 < 32 ∧ 15 < 16) ∧ ((16 < 32 ∧ 16 ≤ 16) ∧ 31 < 32 ∧ 16 ≤ 31) ∧ 0 < 8 ∧ 7 < 8 := by decide

/-- Bits 15 and 16 of the valid header 0x2BD410EF flipped (R117; V6 has the second); the first breaks HCCPL, the
second HPCPL. -/
theorem test_boundary_flips_are_told_apart :
    headerFlags 0x2BD490EF = ⟨true, true, false, false, false, false⟩ ∧
    headerFlags 0x2BD510EF = ⟨true, false, true, true, false, false⟩ := by decide

/-- TransmissionRunPutsTheOctetsOnTheWire. -/
theorem witness_transmission_run :
    let s := hosting [.write 0x00 32 (encode .wrU32)] (.host :: (readySink (octets .wrU32) ++ [.block]))
    Instr.wrU32 ∈ [Instr.wrU8, .wrU16, .wrU32, .sendHdr] ∧ s.busy = false ∧
    s.program = .write 0x00 32 (encode .wrU32) :: [] ∧
    s.schedule = .host :: (readySink (octets .wrU32) ++ .block :: []) := by
  refine ⟨by decide, rfl, rfl, rfl⟩

/-- AbortKeepsWhatMovedAndDeliversNothing, clause 1: an error at once and after three octets, ready or not. -/
theorem witness_transmission_abort (j : Nat) (hj : j ∈ [0, 3]) (ready : Bool) :
    let s := hosting [.write 0x00 32 (encode .wrU32)] (.host :: (readySink j ++ [.txSink ready true]))
    Instr.wrU32 ∈ [Instr.wrU8, .wrU16, .wrU32, .sendHdr] ∧ j < octets .wrU32 ∧ s.busy = false ∧
    s.program = .write 0x00 32 (encode .wrU32) :: [] ∧ s.schedule = .host :: (readySink j ++ .txSink ready true :: []) := by
  refine ⟨by decide, ?_, show (0 : Word).getLsbD 0 = false from rfl, rfl, rfl⟩
  revert j
  decide

/-- AbortKeepsWhatMovedAndDeliversNothing, clause 2: an error at once and after three octets, valid or not. -/
theorem witness_reception_abort (bs : List Octet) (hbs : bs ∈ [[], [(0x5A : Octet), 0x05, 0x18]]) (valid : Bool) :
    let s := hosting [.write 0x00 32 (encode .rdU32)] (.host :: (supplyingSource bs ++ [.rxSource valid true 0x7F]))
    Instr.rdU32 ∈ [Instr.rdU8, .rdU16, .rdU32] ∧ bs.length < octets .rdU32 ∧ s.busy = false ∧
    s.program = .write 0x00 32 (encode .rdU32) :: [] ∧
    s.schedule = .host :: (supplyingSource bs ++ .rxSource valid true 0x7F :: []) := by
  refine ⟨by decide, ?_, show (0 : Word).getLsbD 0 = false from rfl, rfl, rfl⟩
  revert bs
  decide

/-- ReceptionRunDeliversTheValue. -/
theorem witness_reception_run :
    let bs : List Octet := [0x5A, 0x05, 0x18, 0x00]
    let s := hosting [.write 0x00 32 (encode .rdU32)] (.host :: (supplyingSource bs ++ [.block]))
    Instr.rdU32 ∈ [Instr.rdU8, .rdU16, .rdU32] ∧ bs.length = octets .rdU32 ∧ s.busy = false ∧
    s.program = .write 0x00 32 (encode .rdU32) :: [] ∧ s.schedule = .host :: (supplyingSource bs ++ .block :: []) := by
  refine ⟨by decide, rfl, rfl, rfl, rfl⟩

/-- PartialAcceptanceIsNoError: V1's pause; the invariant is witness_transmitting_inv. -/
theorem witness_partial_acceptance :
    let s := { running 3 4 2 0x12345678 0 .block with schedule := [Turn.txSink false false, .txSink true false] }
    s.seq = .exec ∧ (decodeOp s.op).toOption = some .wrU32 ∧ s.k.toNat + [false, true].count true ≤ s.n.toNat ∧
    s.schedule = [false, true].map (fun r => Turn.txSink r false) ++ [] := by decide

/-- PureFramerOperationsCompleteWithoutStreams and HeaderCommandRunSendsItsHeader. -/
theorem witness_framer_runs :
    (let s := hosting [.write 0x00 32 (encode .checkHdr)] [.host, .block]
     s.busy = false ∧ s.program = .write 0x00 32 (encode .checkHdr) :: [] ∧ s.schedule = .host :: .block :: []) ∧
    (let s := hosting [.wireHeader (encode .hdrStatus)] (operationTurns 4)
     s.busy = false ∧ s.program = .wireHeader (encode .hdrStatus) :: [] ∧ s.schedule = operationTurns 4 ++ []) := by
  refine ⟨⟨rfl, rfl, rfl⟩, rfl, rfl, by simp [hosting]⟩

/-- LoopbackReturnsTheValue, clause 1. -/
theorem witness_loopback_write_read :
    let s := { hosting [.write 0x00 32 (encode .wrU16), .write 0x00 32 (encode .rdU16)]
      (.host :: (readySink (octets .wrU16) ++ .block ::
        .host :: (supplyingSource (octetsOf (octets .wrU16) 0x1234) ++ .block :: []))) with dataIn := 0x1234 }
    s.busy = false ∧ s.program = .write 0x00 32 (encode .wrU16) :: .write 0x00 32 (encode .rdU16) :: [] ∧
    s.schedule = .host :: (readySink (octets .wrU16) ++ .block ::
      .host :: (supplyingSource (octetsOf (octets .wrU16) s.dataIn) ++ .block :: [])) := ⟨rfl, rfl, rfl⟩

/-- LoopbackReturnsTheValue, clause 2. -/
theorem witness_loopback_read_write (bs : List Octet) (hbs : bs = [0x12, 0x34]) :
    let s := hosting [.write 0x00 32 (encode .rdU16), .read 0x08 32, .writeLastRead 0x04 32, .write 0x00 32 (encode .wrU16)]
      (.host :: (supplyingSource bs ++ .block :: .host :: .host :: .host :: (readySink (octets .wrU16) ++ .block :: [])))
    bs.length = octets .rdU16 ∧ s.busy = false ∧
    s.program = .write 0x00 32 (encode .rdU16) :: .read 0x08 32 :: .writeLastRead 0x04 32 ::
      .write 0x00 32 (encode .wrU16) :: [] ∧
    s.schedule = .host :: (supplyingSource bs ++ .block ::
      .host :: .host :: .host :: (readySink (octets .wrU16) ++ .block :: [])) :=
  ⟨hbs ▸ rfl, show (0 : Word).getLsbD 0 = false from rfl, rfl, rfl⟩

/-- WriteOnlyCommandsSendTheirRequest, both forms: P5's RtcSet, and a MemWrite. -/
theorem witness_write_only_commands :
    ∀ c ∈ [WireCommand.rtcSet 0x01 0x02 0x03 0x04 0x05 0x06, fifoWrite [0xDE, 0xAD]],
      ((∃ f0 f1 f2 f3 f4 f5, c = .rtcSet f0 f1 f2 f3 f4 f5) ∨
        ∃ address bytes, c = .memWrite address bytes ∧ bytes.length < 2 ^ 32) ∧
      ∃ lines, assemble (commandProgram c) = .ok lines ∧
        (hosting lines ((commandProgram c).flatMap lineTurns)).busy = false ∧
        (hosting lines ((commandProgram c).flatMap lineTurns)).program = lines ++ [] ∧
        (hosting lines ((commandProgram c).flatMap lineTurns)).schedule = (commandProgram c).flatMap lineTurns ++ [] := by
  simp only [List.mem_cons, List.not_mem_nil, or_false]
  rintro c (rfl | rfl)
  · exact ⟨.inl ⟨_, _, _, _, _, _, rfl⟩, _, rfl, rfl, by simp [hosting], by simp [hosting]⟩
  · exact ⟨.inr ⟨_, _, rfl, by decide⟩, _, rfl, rfl, by simp [hosting], by simp [hosting]⟩

/-- WideWritesEqualNarrowWrites: V1's WR_U32 of 0x12345678 beside its four octets. -/
theorem witness_wide_writes :
    (AsmLine.wrU32 (0x12345678#32).toNat, [AsmLine.wrU8 0x12, .wrU8 0x34, .wrU8 0x56, .wrU8 0x78]) ∈
      [(AsmLine.wrU32 (0x12345678#32).toNat, [AsmLine.wrU8 ((0x12345678#32).extractLsb' 24 8).toNat,
          .wrU8 ((0x12345678#32).extractLsb' 16 8).toNat, .wrU8 ((0x12345678#32).extractLsb' 8 8).toNat,
          .wrU8 ((0x12345678#32).extractLsb' 0 8).toNat]),
        (.wrU16 ((0x12345678#32).extractLsb' 0 16).toNat, [.wrU8 ((0x12345678#32).extractLsb' 8 8).toNat,
          .wrU8 ((0x12345678#32).extractLsb' 0 8).toNat])] ∧
    State.reset.busy = false := by decide

/-- BusAddressesCountFromRegBase: a state for each transaction, the three forms of a command write, and an address and a
width that are no register's. -/
theorem witness_bus_addresses (tr : BusTransaction) :
    AboutToIssue (lineOfTransaction tr) [] (hosting [lineOfTransaction tr] [.host]) ∧
    (State.reset.busy = false ∧ decodeCommand 0x1 = .ok .wrU8 ∧ ∀ i, decodeCommand 0x4 ≠ .ok i) ∧
    (running 9 4 0 0x10 0 .host).busy = true ∧
    ¬ ((32 : Nat) = 32 ∧ windowAddress 2 ∈ [windowAddress 0, windowAddress 4, windowAddress 8, windowAddress 12]) ∧
    ¬ ((8 : Nat) = 32 ∧ windowAddress 0 ∈ [windowAddress 0, windowAddress 4, windowAddress 8, windowAddress 12]) := by
  refine ⟨⟨rfl, rfl⟩, ⟨rfl, rfl, fun i => by cases i <;> decide⟩, rfl, ?_, by simp⟩
  rintro ⟨-, h⟩
  simp [← BitVec.toNat_inj, windowAddress_toNat] at h

/-- The last octet of the window has an address of its own, at whatever REG_BASE. -/
theorem test_window_end : (windowAddress 15).toNat = Config.regBase + 15 ∧ Config.busOffset (windowAddress 15) = 15 :=
  ⟨windowAddress_toNat (by decide), busOffset_windowAddress (by decide)⟩

/-- SendingProgramsReachTheWireInOrder: P2's program. -/
theorem witness_sending_program :
    (∀ l ∈ commandProgram (fifoWrite [0xDE, 0xAD]), l.wellFormed = true ∧ isSending l = true) ∧
    [(0xDE : Octet), 0xAD].length < 2 ^ 32 ∧
    (let ls := commandProgram (fifoWrite [0xDE, 0xAD])
     let s := hosting (ls.flatMap expansion) (ls.flatMap lineTurns)
     s.busy = false ∧ s.program = ls.flatMap expansion ++ [] ∧ s.schedule = ls.flatMap lineTurns ++ []) := by
  refine ⟨by decide, by decide, rfl, by simp [hosting], by simp [hosting]⟩

end Sys2Proof.Tests
end

/-! SUPPORT for the statements of the family 10_state: the turn behind a stream's answer, the ports by OP, the step of a
running operation as one equation, the register port's steps, and what one step can do to STATUS, to RESULT, to the
streams' records and to an offered octet. -/

namespace Sys2Proof.Machine

open Sys2Proof.Safety

/-! ### The turn behind a stream's answer -/

/-- The sink accepts exactly when it drives ready and no error (10_state R41, R43). -/
theorem txAnswer_eq_ok {t : Turn} : txAnswer t = .ok ↔ t = .txSink true false := by
  cases t with
  | txSink ready err => cases ready <;> cases err <;> simp [txAnswer]
  | _ => simp [txAnswer]

/-- The sink errs exactly when it drives error, whatever ready is (R43). -/
theorem txAnswer_eq_err {t : Turn} : txAnswer t = .err ↔ ∃ ready, t = .txSink ready true := by
  cases t with
  | txSink ready err => cases ready <;> cases err <;> simp [txAnswer]
  | _ => simp [txAnswer]

/-- The source supplies an octet exactly when it drives valid and no error (R42, R43). -/
theorem rxAnswer_eq_ok {t : Turn} {b : Octet} : rxAnswer t = .ok b ↔ t = .rxSource true false b := by
  cases t with
  | rxSource valid err data => cases valid <;> cases err <;> simp [rxAnswer]
  | _ => simp [rxAnswer]

/-- The source errs exactly when it drives error, whatever valid is (R43). -/
theorem rxAnswer_eq_err {t : Turn} : rxAnswer t = .err ↔ ∃ valid data, t = .rxSource valid true data := by
  cases t with
  | rxSource valid err data => cases valid <;> cases err <;> simp [rxAnswer]
  | _ => simp [rxAnswer]

/-! ### The ports and OP -/

/-- The OP values that send are those of the four TX operations (R41, 30_encoding R72). -/
theorem isTxOp_iff (c : BitVec 4) :
    isTxOp c = true ↔ ∃ i, decodeOp c = .ok i ∧ i ∈ [.wrU8, .wrU16, .wrU32, .sendHdr] := by
  simp [isTxOp, decodeOp_ok_iff, or_and_right, exists_or, and_assoc, or_assoc]

/-- The OP values that receive are those of the three RD_* operations (R42, R72). -/
theorem isRxOp_iff (c : BitVec 4) :
    isRxOp c = true ↔ ∃ i, decodeOp c = .ok i ∧ i ∈ [.rdU8, .rdU16, .rdU32] := by
  simp [isRxOp, decodeOp_ok_iff, or_and_right, exists_or, and_assoc, or_assoc]

/-- The port tx_valid, spelled out (R41). -/
theorem txValid_iff {s : State} : txValid s = true ↔ s.seq = .exec ∧ s.k.toNat < s.n.toNat ∧ isTxOp s.op = true := by
  simp [txValid, and_assoc]

/-- The port rx_ready, spelled out (R42). -/
theorem rxReady_iff {s : State} : rxReady s = true ↔ s.seq = .exec ∧ s.k.toNat < s.n.toNat ∧ isRxOp s.op = true := by
  simp [rxReady, and_assoc]

/-- No OP value both sends and receives. -/
theorem isRxOp_eq_false_of_isTxOp {c : BitVec 4} : isTxOp c = true → isRxOp c = false := by
  revert c
  decide

/-- A block that offers an octet asks for none. -/
theorem rxReady_eq_false_of_txValid {s : State} (h : txValid s = true) : rxReady s = false := by
  obtain ⟨-, -, htx⟩ := txValid_iff.1 h
  simp [rxReady, isRxOp_eq_false_of_isTxOp htx]

@[simp] theorem txWord_takeTurn (t : Turn) (s : State) : txWord (takeTurn t s) = txWord s := rfl

/-! ### The step of a running operation -/

/-- The transfer of the operation OP names: a transmission of the octets R91 gives, a reception, or none (R30). -/
def runningTransfer (s : State) : State :=
  if isTxOp s.op then transmit (txWord s) s else if isRxOp s.op then receive s else s

/-- `complete()` of each operation (R33); a header row is no operation of the block. -/
def completion (i : Instr) (s : State) : State :=
  match i with
  | .wrU8 | .wrU16 | .wrU32 => completeWrite s
  | .rdU8 | .rdU16 | .rdU32 => completeRead s
  | .buildHdr | .sendHdr => completeHeader s
  | .checkHdr => completeCheck s
  | .hdrStatus | .hdrGetVoltage | .hdrRtcGet | .hdrRtcSet | .hdrMemRead | .hdrMemWrite | .hdrExtendedStatus => s

/-- The sequencer's step of operation `i` (R30). -/
def runningStep (i : Instr) (s : State) : State := sequencerStep runningTransfer (completion i) s

/-- While `i` runs, its meaning on any turn but the host's is the sequencer's step. BUILD_HDR and CHECK_HDR transfer
nothing, and each of the other seven transfers on the stream its code selects. -/
theorem exec_running {i : Instr} {s : State} (hi : decodeOp s.op = .ok i) (he : s.seq = .exec) (ht : s.turn ≠ .host) :
    exec i s = .next (runningStep i s) := by
  cases i <;> simp [decodeOp_ok_iff] at hi <;>
    simp [exec, execWrU8, execWrU16, execWrU32, execRdU8, execRdU16, execRdU32, execBuildHdr, execSendHdr, execCheckHdr,
      runOperation, runningStep, sequencerStep, runningTransfer, completion, isTxOp, isRxOp, txWord, noTransfer,
      ht, he, hi]

/-- A turn of a stream or of the block is not the host's. -/
theorem isBlockTurn_ne_host {t : Turn} (h : IsBlockTurn t) : t ≠ .host := by
  rintro rfl
  exact h

/-- A step of the machine on a turn of a stream or of the block while `i` runs. -/
theorem step_runningStep {s : State} {t : Turn} {i : Instr} (hn : nextTurn s = some t) (hb : IsBlockTurn t)
    (he : s.seq = .exec) (hi : decodeOp s.op = .ok i) : step s = .next (runningStep i (takeTurn t s)) := by
  rw [step_running hn hb he hi]
  exact exec_running hi he (isBlockTurn_ne_host hb)

/-- While octets are left, the sequencer's step is the transfer. -/
theorem runningStep_of_lt {i : Instr} {s : State} (hk : s.k.toNat < s.n.toNat) : runningStep i s = runningTransfer s := by
  simp [runningStep, sequencerStep, hk]

/-- With all octets moved, the block's turn is the completion. -/
theorem runningStep_of_eq {i : Instr} {s : State} (hk : s.k = s.n) (ht : s.turn = .block) :
    runningStep i s = completion i s := by
  simp [runningStep, sequencerStep, hk, ht]

/-- A turn of a stream or of the block while an octet is offered. -/
theorem step_transmit {s : State} {t : Turn} (hv : txValid s = true) (hn : nextTurn s = some t) (hb : IsBlockTurn t) :
    step s = .next (transmit (txWord s) (takeTurn t s)) := by
  obtain ⟨he, hk, hop⟩ := txValid_iff.1 hv
  obtain ⟨i, hi, -⟩ := (isTxOp_iff _).1 hop
  rw [step_runningStep hn hb he hi, runningStep_of_lt (by exact hk)]
  simp [runningTransfer, hop]

/-- A turn of a stream or of the block while an octet is asked for. -/
theorem step_receive {s : State} {t : Turn} (hr : rxReady s = true) (hn : nextTurn s = some t) (hb : IsBlockTurn t) :
    step s = .next (receive (takeTurn t s)) := by
  obtain ⟨he, hk, hop⟩ := rxReady_iff.1 hr
  obtain ⟨i, hi, -⟩ := (isRxOp_iff _).1 hop
  have htx : isTxOp s.op = false := by
    cases h : isTxOp s.op with
    | false => rfl
    | true => exact absurd hop (by simp [isRxOp_eq_false_of_isTxOp h])
  rw [step_runningStep hn hb he hi, runningStep_of_lt (by exact hk)]
  simp [runningTransfer, hop, htx]

/-- `complete()` as a step of the machine (R33). -/
theorem step_completion {s : State} {i : Instr} (h : Completes s) (hi : decodeOp s.op = .ok i) :
    step s = .next (completion i (takeTurn .block s)) := by
  obtain ⟨he, hk, hn⟩ := h
  rw [step_runningStep hn trivial he hi, runningStep_of_eq (by exact hk) rfl]

/-- `raise TransportError` as a step of the machine (R43, 60_exceptions R163). -/
theorem step_abort {s : State} (h : Aborts s) :
    ∃ t, nextTurn s = some t ∧ step s = .next (raiseTransportError (takeTurn t s)) := by
  obtain ⟨hv, ready, hn⟩ | ⟨hr, valid, data, hn⟩ := h
  · exact ⟨_, hn, by rw [step_transmit hv hn trivial]; rfl⟩
  · exact ⟨_, hn, by rw [step_receive hr hn trivial]; rfl⟩

/-- The sequencer passes a turn that is not the block's and that the stream of its transfer, if one is left, does not
answer. -/
theorem runningStep_pass {i : Instr} {s : State} (ht : s.turn ≠ .block)
    (htx : txValid s = true → txAnswer s.turn = .noAnswer) (hrx : rxReady s = true → rxAnswer s.turn = .noAnswer)
    (he : s.seq = .exec) : runningStep i s = s := by
  by_cases hk : s.k.toNat < s.n.toNat
  · rw [runningStep_of_lt hk]
    cases hopT : isTxOp s.op with
    | true => simp [runningTransfer, hopT, transmit, htx (txValid_iff.2 ⟨he, hk, hopT⟩)]
    | false =>
      cases hopR : isRxOp s.op with
      | true => simp [runningTransfer, hopT, hopR, receive, hrx (rxReady_iff.2 ⟨he, hk, hopR⟩)]
      | false => simp [runningTransfer, hopT, hopR]
  · simp [runningStep, sequencerStep, hk, ht]

/-- With an OP that is no operation's, a turn of a stream or of the block passes (log 14). -/
theorem step_of_no_operation {s : State} {t : Turn} {e : DecodeError} (hn : nextTurn s = some t) (hb : IsBlockTurn t)
    (he : s.seq = .exec) (hi : decodeOp s.op = .error e) : step s = .next (takeTurn t s) := by
  rw [step_block hn hb]
  simp [fetchBlock, he, hi]

/-- A stream's turn passes when its stream is not waited on, or gives no answer (R30, R43). -/
theorem step_pass {s : State} {t : Turn} (hn : nextTurn s = some t) (hb : IsBlockTurn t) (ht : t ≠ .block)
    (htx : txValid s = true → txAnswer t = .noAnswer) (hrx : rxReady s = true → rxAnswer t = .noAnswer) :
    step s = .next (takeTurn t s) := by
  cases he : s.seq with
  | idle => exact step_idle hn hb he
  | exec =>
    cases hi : decodeOp s.op with
    | ok i =>
      rw [step_runningStep hn hb he hi]
      exact congrArg _ (runningStep_pass (s := takeTurn t s) ht htx hrx he)
    | error e => exact step_of_no_operation hn hb he hi

/-! ### The host's accesses -/

/-- `HostWrites` is `AboutToWrite` with whatever lines follow. -/
theorem hostWrites_iff {off : Int} {v : Word} {s : State} :
    HostWrites off v s ↔ ∃ rest, AboutToWrite off v rest s := by
  constructor
  · rintro ⟨hn, rest, hp | ⟨hp, hv⟩⟩
    · exact ⟨rest, .inl ⟨hp, hn⟩⟩
    · exact ⟨rest, .inr ⟨⟨hp, hn⟩, hv⟩⟩
  · rintro ⟨rest, ⟨hp, hn⟩ | ⟨⟨hp, hn⟩, hv⟩⟩
    · exact ⟨hn, rest, .inl hp⟩
    · exact ⟨hn, rest, .inr ⟨hp, hv⟩⟩

/-- Exactly the 32-bit accesses at the four offsets reach a register (10_state R23, R24). -/
theorem admitted_eq_none_iff {off : Int} {bits : Nat} :
    admitted off bits = none ↔ ¬ (bits = 32 ∧ off ∈ [0x00, 0x04, 0x08, 0x0C]) := by
  unfold admitted
  repeat' split
  all_goals simp [*]

/-- An instruction's meaning is always a next state. -/
theorem exec_answers (i : Instr) (s : State) : ∃ t, exec i s = .next t := by
  cases i <;> exact ⟨_, rfl⟩

/-- A write to a register of the map has a step. -/
theorem fetchWrite_answers {off : Int} {bits : Nat} (h : admitted off bits ≠ none) (v : Word) (s : State) :
    ∃ t, outcomeOf (fetchWrite off bits v s) = .next t := by
  unfold fetchWrite
  split
  · unfold fetchCommand
    split
    · exact ⟨_, rfl⟩
    · split
      · exact exec_answers _ s
      · exact ⟨_, rfl⟩
  · exact ⟨_, rfl⟩
  · exact ⟨_, rfl⟩
  · exact ⟨_, rfl⟩
  · exact absurd ‹_› h

/-- A write to no register of the map is refused (R24). -/
theorem fetchWrite_refuses {off : Int} {bits : Nat} (h : admitted off bits = none) (v : Word) (s : State) :
    outcomeOf (fetchWrite off bits v s) = .refused .accessNotAdmitted := by
  simp [fetchWrite, h]

/-- A read of a register of the map (R25, R39). -/
theorem step_read {s : State} {off : Int} {bits : Nat} {rest : List HostLine} {r : Reg}
    (h : AboutToIssue (.read off bits) rest s) (ha : admitted off bits = some r) :
    step s = .next (regRead r (issued rest s)) := by
  rw [step_issue h]
  simp [fetchLine, ha]

/-- A read of no register of the map is refused (R24). -/
theorem step_read_refused {s : State} {off : Int} {bits : Nat} {rest : List HostLine}
    (h : AboutToIssue (.read off bits) rest s) (ha : admitted off bits = none) :
    step s = .refused .accessNotAdmitted := by
  rw [step_issue h]
  simp [fetchLine, ha]

/-- A `writeLastRead` line with something read is a write of the last value read. -/
theorem step_writeLastRead {s : State} {off : Int} {bits : Nat} {rest : List HostLine}
    (h : AboutToIssue (.writeLastRead off bits) rest s) (hr : s.reads ≠ []) :
    step s = outcomeOf (fetchWrite off bits (s.reads.getLast hr) (issued rest s)) := by
  rw [step_issue h]
  simp [fetchLine, List.getLast?_eq_some_getLast hr]

/-- A write to CMD while BUSY=1 (R29). -/
theorem step_reject {s : State} {v : Word} {rest : List HostLine} (h : AboutToWrite 0x00 v rest s) (hb : s.busy = true) :
    step s = .next (rejectCommand (issued rest s)) := by
  rw [step_write h]
  simp [fetchWrite, admitted, fetchCommand, hb]

/-- A write of an illegal word to CMD while BUSY=0 (R29). -/
theorem step_illegal {s : State} {v : Word} {rest : List HostLine} (h : AboutToWrite 0x00 v rest s)
    (hb : s.busy = false) (hv : ∀ i, decodeCommand v ≠ .ok i) : step s = .next (illegalCommand (issued rest s)) := by
  rw [step_write h]
  cases hd : decodeCommand v with
  | ok i => exact absurd hd (hv i)
  | error e => simp [fetchWrite, admitted, fetchCommand, hb, hd]

/-! ### What a completion leaves behind -/

/-- The header word an operation reports at its completion (41_framer R112, R113, R115). -/
def Reports (i : Instr) (s : State) (w : Word) : Prop :=
  (i ∈ [.buildHdr, .sendHdr] ∧ w = hdr (s.opnd.extractLsb' 0 8)) ∨ (i = .checkHdr ∧ w = s.opnd)

/-- The six header flags of a state's STATUS. -/
def flagsOf (s : State) : HeaderFlags := ⟨s.hsent, s.hpcpl, s.hccpl, s.hopk, s.hwf, s.hvalid⟩

/-- A completion touches RESULT, STATUS and SEQ only (R33). -/
theorem completion_frame {c : BitVec 4} {i : Instr} (hi : decodeOp c = .ok i) (s : State) :
    completion i s =
      { s with result := (completion i s).result, status := (completion i s).status, seq := .idle } := by
  cases i <;> simp [decodeOp_ok_iff] at hi <;> rfl

/-- A codec operation's completion reports no header (R33). -/
theorem completion_status_codec {i : Instr} (hi : i ∈ [.wrU8, .wrU16, .wrU32, .rdU8, .rdU16, .rdU32]) (s : State) :
    (completion i s).status = completedStatus s.status := by
  fin_cases hi <;> rfl

/-- A framer operation's completion reports its header (R33, R35). -/
theorem completion_status_reports {i : Instr} {s : State} {w : Word} (h : Reports i s w) :
    (completion i s).status = completedStatus (setFlagsFrom w s.status) := by
  obtain ⟨hi, rfl⟩ | ⟨rfl, rfl⟩ := h
  · fin_cases hi <;> rfl
  · rfl

/-- Each of the nine operations is a codec operation or reports a header. -/
theorem codec_or_reports {c : BitVec 4} {i : Instr} (hi : decodeOp c = .ok i) (s : State) :
    i ∈ [.wrU8, .wrU16, .wrU32, .rdU8, .rdU16, .rdU32] ∨ ∃ w, Reports i s w := by
  cases i <;> simp [decodeOp_ok_iff, Reports] at hi ⊢

/-- A STATUS in which a header was reported has that header's flags, all six (R35). -/
theorem flagsOf_completed {s : State} {w st : Word} (h : s.status = completedStatus (setFlagsFrom w st)) :
    flagsOf s = headerFlags w := by
  simp [flagsOf, State.hsent, State.hpcpl, State.hccpl, State.hopk, State.hwf, State.hvalid, h]

/-- Every completion sets DONE, clears BUSY and leaves every bit but those two and the header flags (R33). -/
theorem completion_status {c : BitVec 4} {i : Instr} (hi : decodeOp c = .ok i) (s : State) :
    (completion i s).doneBit = true ∧ (completion i s).busy = false ∧
      ∀ j, j ≠ 0 → j ≠ 1 → ¬ (8 ≤ j ∧ j ≤ 13) → (completion i s).status.getLsbD j = s.status.getLsbD j := by
  unfold State.doneBit State.busy
  obtain hcodec | ⟨w, hw⟩ := codec_or_reports hi s
  · rw [completion_status_codec hcodec s]
    refine ⟨by simp, by simp, fun j h0 h1 _ => by simp [h0, h1]⟩
  · rw [completion_status_reports hw]
    refine ⟨by simp, by simp, fun j h0 h1 hj => ?_⟩
    rw [getLsbD_completedStatus, if_neg h0, if_neg h1, getLsbD_setFlagsFrom]
    repeat rw [if_neg (by omega)]

/-! ### What one step can do to STATUS -/

/-- A `wait` poll changes nothing of the block (30_encoding R81, 10_state R39). -/
@[simp] theorem pollStatus_block (s : State) :
    (pollStatus s).dataIn = s.dataIn ∧ (pollStatus s).result = s.result ∧ (pollStatus s).status = s.status ∧
    (pollStatus s).seq = s.seq ∧ (pollStatus s).op = s.op ∧ (pollStatus s).opnd = s.opnd ∧ (pollStatus s).n = s.n ∧
    (pollStatus s).k = s.k ∧ (pollStatus s).acc = s.acc ∧ (pollStatus s).txWire = s.txWire ∧
    (pollStatus s).rxTaken = s.rxTaken := by
  unfold pollStatus
  split <;> simp

/-- An error on a stream that is waited on, as the turn's answer, is an abort (R43). -/
theorem aborts_of_err {s : State} {t : Turn} (hn : nextTurn s = some t)
    (h : (txValid s = true ∧ txAnswer t = .err) ∨ (rxReady s = true ∧ rxAnswer t = .err)) : Aborts s := by
  obtain ⟨hv, he⟩ | ⟨hr, he⟩ := h
  · obtain ⟨ready, rfl⟩ := txAnswer_eq_err.1 he
    exact .inl ⟨hv, ready, hn⟩
  · obtain ⟨valid, data, rfl⟩ := rxAnswer_eq_err.1 he
    exact .inr ⟨hr, valid, data, hn⟩

/-- What a step from `s` can leave in STATUS, and what must then be happening. -/
inductive StatusChange (s : State) : Word → Prop where
  | same : StatusChange s s.status
  | sticky (v : Word) (host : HostWrites 0x0C v s) : StatusChange s (clearSticky v s.status)
  | reject (v : Word) (host : HostWrites 0x00 v s) (busy : s.busy = true) : StatusChange s (rejectedStatus s.status)
  | illegal (v : Word) (host : HostWrites 0x00 v s) (idle : s.busy = false) (hill : ∀ i, decodeCommand v ≠ .ok i) :
      StatusChange s (illegalStatus s.status)
  | accept (v : Word) (i : Instr) (host : HostWrites 0x00 v s) (idle : s.busy = false) (hv : decodeCommand v = .ok i) :
      StatusChange s (acceptedStatus s.status)
  | abort (waits : Aborts s) : StatusChange s (abortedStatus s.status)
  | complete (due : Completes s) : StatusChange s (completedStatus s.status)
  | report (i : Instr) (w : Word) (due : Completes s) (op : decodeOp s.op = .ok i) (reports : Reports i s w) :
      StatusChange s (completedStatus (setFlagsFrom w s.status))
  | reset (turn : nextTurn s = some .reset) : StatusChange s 0

/-- The inversion of the step for STATUS (10_state R29, R33, R38, R40; 60_exceptions R163). -/
theorem step_status {s t : State} (h : step s = .next t) : StatusChange s t.status := by
  obtain ⟨turn, p, hn, -, e⟩ := step_effect h
  cases e with
  | pass => exact .same
  | read r => exact .same
  | poll => simpa using StatusChange.same
  | dataIn v hw => exact .same
  | statusWrite v hw => exact .sticky v hw
  | header o hc => exact .same
  | reject v hw hb => exact .reject v hw hb
  | illegal v hw hb hill => exact .illegal v hw hb hill
  | accept v hw i c m hb hv hop hm => exact .accept v i hw hb hv
  | put hv ok => exact .same
  | take b hr ok => exact .same
  | abort waits => exact .abort (aborts_of_err hn waits)
  | completeWrite he hk ht hop => exact .complete ⟨he, hk, ht ▸ hn⟩
  | completeRead he hk ht hop => exact .complete ⟨he, hk, ht ▸ hn⟩
  | completeHeader he hk ht hop =>
    obtain hop | hop := hop
    · exact .report .buildHdr _ ⟨he, hk, ht ▸ hn⟩ (hop ▸ rfl) (.inl ⟨by simp, rfl⟩)
    · exact .report .sendHdr _ ⟨he, hk, ht ▸ hn⟩ (hop ▸ rfl) (.inl ⟨by simp, rfl⟩)
  | completeCheck he hk ht hop =>
    exact .report .checkHdr _ ⟨he, hk, ht ▸ hn⟩ (hop ▸ rfl) (.inr ⟨rfl, rfl⟩)
  | reset ht => exact .reset (ht ▸ hn)

/-! ### DATA_IN and a running operation -/

theorem transmit_writeDataIn (value v : Word) (s : State) :
    transmit value (writeDataIn v s) = writeDataIn v (transmit value s) := by
  unfold transmit
  rw [writeDataIn_turn]
  cases txAnswer s.turn <;> rfl

theorem receive_writeDataIn (v : Word) (s : State) : receive (writeDataIn v s) = writeDataIn v (receive s) := by
  unfold receive
  rw [writeDataIn_turn]
  cases rxAnswer s.turn <;> rfl

theorem runningTransfer_writeDataIn (v : Word) (s : State) :
    runningTransfer (writeDataIn v s) = writeDataIn v (runningTransfer s) := by
  unfold runningTransfer
  rw [writeDataIn_op, transmit_writeDataIn, receive_writeDataIn]
  split
  · rfl
  · split <;> rfl

theorem completion_writeDataIn (i : Instr) (v : Word) (s : State) :
    completion i (writeDataIn v s) = writeDataIn v (completion i s) := by
  cases i <;> rfl

/-- The sequencer never reads DATA_IN (10_state R27). -/
theorem runningStep_writeDataIn (i : Instr) (v : Word) (s : State) :
    runningStep i (writeDataIn v s) = writeDataIn v (runningStep i s) := by
  unfold runningStep sequencerStep
  rw [runningTransfer_writeDataIn, completion_writeDataIn, writeDataIn_k, writeDataIn_n, writeDataIn_turn]
  split
  · rfl
  · split <;> rfl

/-- From the same state with another DATA_IN, a running operation's step gives the same next state with that DATA_IN
(R27). -/
theorem step_writeDataIn {s t : State} {turn : Turn} (v : Word) (he : s.seq = .exec) (hn : nextTurn s = some turn)
    (hb : IsBlockTurn turn) (h : step s = .next t) : step (writeDataIn v s) = .next (writeDataIn v t) := by
  have hn' : nextTurn (writeDataIn v s) = some turn := hn
  cases hi : decodeOp s.op with
  | ok i =>
    cases h.symm.trans (step_runningStep hn hb he hi)
    rw [step_runningStep hn' hb he hi]
    exact congrArg _ (runningStep_writeDataIn i v (takeTurn turn s))
  | error e =>
    cases h.symm.trans (step_of_no_operation hn hb he hi)
    exact step_of_no_operation hn' hb he hi

/-! ### What one step can do to RESULT, to the octets taken and to an offer -/

/-- RESULT changes only at the completion of RD_*, BUILD_HDR or SEND_HDR, or at reset (R28). -/
theorem step_result {s t : State} (h : step s = .next t) :
    t.result = s.result ∨ nextTurn s = some .reset ∨
      (Completes s ∧ ∃ i, decodeOp s.op = .ok i ∧ i ∈ [.rdU8, .rdU16, .rdU32, .buildHdr, .sendHdr]) := by
  obtain ⟨turn, p, hn, -, e⟩ := step_effect h
  cases e with
  | poll => simp
  | completeRead he hk ht hop =>
    have hc : Completes s := ⟨he, hk, ht ▸ hn⟩
    obtain hop | hop | hop := hop
    · exact .inr (.inr ⟨hc, .rdU8, hop ▸ rfl, by simp⟩)
    · exact .inr (.inr ⟨hc, .rdU16, hop ▸ rfl, by simp⟩)
    · exact .inr (.inr ⟨hc, .rdU32, hop ▸ rfl, by simp⟩)
  | completeHeader he hk ht hop =>
    have hc : Completes s := ⟨he, hk, ht ▸ hn⟩
    obtain hop | hop := hop
    · exact .inr (.inr ⟨hc, .buildHdr, hop ▸ rfl, by simp⟩)
    · exact .inr (.inr ⟨hc, .sendHdr, hop ▸ rfl, by simp⟩)
  | reset ht => exact .inr (.inl (ht ▸ hn))
  | _ => exact .inl rfl

/-- What has been taken changes only by the octet the block asked for (R42). -/
theorem step_rxTaken {s t : State} (h : step s = .next t) :
    t.rxTaken = s.rxTaken ∨
      (rxReady s = true ∧ ∃ b, nextTurn s = some (.rxSource true false b) ∧ t.rxTaken = s.rxTaken ++ [b]) := by
  obtain ⟨turn, p, hn, -, e⟩ := step_effect h
  cases e with
  | poll => simp
  | take b hr ok => exact .inr ⟨hr, b, rxAnswer_eq_ok.1 ok ▸ hn, rfl⟩
  | _ => exact .inl rfl

/-- The ports of TX depend only on the sequencer's registers. -/
theorem txPort_congr {s t : State} (hseq : t.seq = s.seq) (hk : t.k = s.k) (hn : t.n = s.n) (hop : t.op = s.op)
    (hopnd : t.opnd = s.opnd) : txValid t = txValid s ∧ txData t = txData s := by
  simp [txValid, txData, txWord, hseq, hk, hn, hop, hopnd]

/-- BUSY is SEQ=EXEC after each effect, if it is before (R32). -/
theorem effect_busy_iff_exec {wr : Int → Word → Prop} {cmdLine : Octet → Prop} {s t : State}
    (e : Effect wr cmdLine s t) (hb : s.busy = true ↔ s.seq = .exec) : t.busy = true ↔ t.seq = .exec := by
  cases e with
  | pass => exact hb
  | read => exact hb
  | poll => simpa [State.busy] using hb
  | dataIn => exact hb
  | header => exact hb
  | put => exact hb
  | take => exact hb
  | statusWrite v => simpa [State.busy] using hb
  | reject v => simpa [State.busy] using hb
  | illegal v => simpa [State.busy] using hb
  | accept => simp [State.busy]
  | abort => simp [State.busy]
  | completeWrite => simp [State.busy, completeWrite]
  | completeRead => simp [State.busy, completeRead]
  | completeHeader => simp [State.busy, completeHeader]
  | completeCheck => simp [State.busy, completeCheck]
  | reset => simp [State.busy]

/-- What a step does to an offered octet, from a state in which BUSY is SEQ=EXEC: it keeps it, or the sink accepts it, or
the operation aborts, or reset withdraws it (R41). -/
theorem step_offer {s t : State} (hb : s.busy = true ↔ s.seq = .exec) (hv : txValid s = true) (h : step s = .next t) :
    (txValid t = true ∧ txData t = txData s ∧ t.txWire = s.txWire) ∨
    (nextTurn s = some (.txSink true false) ∧ t.k = s.k + 1 ∧ ∃ b, txData s = some b ∧ t.txWire = s.txWire ++ [b]) ∨
    (Aborts s ∧ txValid t = false ∧ t.txWire = s.txWire) ∨
    (nextTurn s = some .reset ∧ txValid t = false ∧ t.txWire = s.txWire) := by
  obtain ⟨he, hlt, -⟩ := txValid_iff.1 hv
  have hbusy : s.busy = true := hb.2 he
  have keeps (hseq : t.seq = s.seq) (hk : t.k = s.k) (hn : t.n = s.n) (hop : t.op = s.op) (hopnd : t.opnd = s.opnd)
      (hwire : t.txWire = s.txWire) : txValid t = true ∧ txData t = txData s ∧ t.txWire = s.txWire := by
    obtain ⟨htv, htd⟩ := txPort_congr hseq hk hn hop hopnd
    exact ⟨htv.trans hv, htd, hwire⟩
  have full {P : Prop} (hk : s.k = s.n) : P := absurd hlt (by simp [hk])
  obtain ⟨turn, p, hn, -, e⟩ := step_effect h
  cases e with
  | poll => exact .inl (keeps (by simp) (by simp) (by simp) (by simp) (by simp) (by simp))
  | illegal v hw idle => nomatch hbusy.symm.trans idle
  | accept v hw i c m idle => nomatch hbusy.symm.trans idle
  | put hv' ok => exact .inr (.inl ⟨txAnswer_eq_ok.1 ok ▸ hn, rfl, _, if_pos hv, rfl⟩)
  | take b hr ok => nomatch (rxReady_eq_false_of_txValid hv).symm.trans hr
  | abort waits => exact .inr (.inr (.inl ⟨aborts_of_err hn waits, by simp [txValid], rfl⟩))
  | completeWrite _ hk => exact full hk
  | completeRead _ hk => exact full hk
  | completeHeader _ hk => exact full hk
  | completeCheck _ hk => exact full hk
  | reset ht => exact .inr (.inr (.inr ⟨ht ▸ hn, by simp [txValid], rfl⟩))
  | _ => exact .inl (keeps rfl rfl rfl rfl rfl rfl)

/-! ### The bits of STATUS, from what one step can do to it -/

/-- A header flag changes only where a header is reported, or at reset (10_state R35). -/
theorem StatusChange.of_headerFlag_ne {s : State} {st : Word} (c : StatusChange s st) {j : Nat} (h8 : 8 ≤ j)
    (h13 : j ≤ 13) (hne : st.getLsbD j ≠ s.status.getLsbD j) :
    nextTurn s = some .reset ∨
      (Completes s ∧ ∃ i w, decodeOp s.op = .ok i ∧ Reports i s w ∧ st = completedStatus (setFlagsFrom w s.status)) := by
  have h0 : j ≠ 0 := by omega
  have h1 : j ≠ 1 := by omega
  have h2 : j ≠ 2 := by omega
  have h3 : j ≠ 3 := by omega
  have h16 : j ≠ 16 := by omega
  have h17 : j ≠ 17 := by omega
  cases c with
  | same => exact absurd rfl hne
  | sticky v => exact absurd (by simp [h16, h17]) hne
  | reject => exact absurd (by simp [h17]) hne
  | illegal => exact absurd (by simp [h1, h2, h3]) hne
  | accept => exact absurd (by simp [h0, h1, h2, h3]) hne
  | abort => exact absurd (by simp [h0, h2, h16]) hne
  | complete => exact absurd (by simp [h0, h1]) hne
  | report i w due hop hr => exact .inr ⟨due, i, w, hop, hr, rfl⟩
  | reset turn => exact .inl turn

/-- DESYNC and REJ are cleared only by the host's write of a 1 to them, or by reset (R36, R37, R38). -/
theorem StatusChange.of_sticky_cleared {s : State} {st : Word} (c : StatusChange s st) {j : Nat} (hj : j = 16 ∨ j = 17)
    (hs : s.status.getLsbD j = true) (ht : st.getLsbD j = false) :
    nextTurn s = some .reset ∨ ∃ v, HostWrites 0x0C v s ∧ v.getLsbD j = true := by
  have kept {x : Word} (h : x.getLsbD j = true) (hx : x.getLsbD j = false) {P : Prop} : P := nomatch h.symm.trans hx
  cases c with
  | same => exact kept hs ht
  | sticky v host =>
    refine .inr ⟨v, host, ?_⟩
    rw [getLsbD_clearSticky, hs] at ht
    obtain rfl | rfl := hj <;> simpa using ht
  | reset turn => exact .inl turn
  | _ => exact kept (by obtain rfl | rfl := hj <;> simp_all) ht

/-- DESYNC is set by an abort only (R36). -/
theorem StatusChange.of_desync_set {s : State} {st : Word} (c : StatusChange s st) (hs : s.status.getLsbD 16 = false)
    (ht : st.getLsbD 16 = true) : Aborts s := by
  cases c with
  | abort waits => exact waits
  | _ => simp_all

/-- REJ is set by a rejected command write only (R37). -/
theorem StatusChange.of_rej_set {s : State} {st : Word} (c : StatusChange s st) (hs : s.status.getLsbD 17 = false)
    (ht : st.getLsbD 17 = true) : s.busy = true ∧ ∃ v, HostWrites 0x00 v s := by
  cases c with
  | reject v host busy => exact ⟨busy, v, host⟩
  | _ => simp_all

/-- BUSY is set by an accepted command only (R32). -/
theorem StatusChange.of_busy_set {s : State} {st : Word} (c : StatusChange s st) (hs : s.status.getLsbD 0 = false)
    (ht : st.getLsbD 0 = true) : ∃ v i, HostWrites 0x00 v s ∧ decodeCommand v = .ok i := by
  cases c with
  | accept v i host idle hd => exact ⟨v, i, host, hd⟩
  | _ => simp_all

/-- BUSY is cleared by a completion, an abort or reset only (R32). -/
theorem StatusChange.of_busy_cleared {s : State} {st : Word} (c : StatusChange s st) (hs : s.status.getLsbD 0 = true)
    (ht : st.getLsbD 0 = false) : Completes s ∨ Aborts s ∨ nextTurn s = some .reset := by
  cases c with
  | complete due => exact .inl due
  | report i w due => exact .inl due
  | abort waits => exact .inr (.inl waits)
  | reset turn => exact .inr (.inr turn)
  | _ => simp_all

end Sys2Proof.Machine

/-! PROOFS. The statements of the family 10_state. -/

namespace Sys2Proof.Proofs

open Sys2Proof Sys2Proof.Machine Sys2Proof.Safety

/-! ### The register port -/

/-- Settles O4: an access that reaches a register runs, and one that reaches none is refused. -/
theorem onlyAlignedWordAccessesAreAdmitted : Obligations.OnlyAlignedWordAccessesAreAdmitted := by
  intro s off bits rest
  constructor <;> intro hoff
  · have ha : admitted off bits ≠ none := fun h => admitted_eq_none_iff.1 h hoff
    obtain ⟨r, hr⟩ := Option.ne_none_iff_exists'.1 ha
    refine ⟨fun v h => ?_, fun h => ⟨_, step_read h hr⟩, fun h hne => ?_⟩
    · rw [step_issue h]
      exact fetchWrite_answers ha v _
    · rw [step_writeLastRead h hne]
      exact fetchWrite_answers ha _ _
  · have ha : admitted off bits = none := admitted_eq_none_iff.2 hoff
    refine ⟨fun v h => ?_, fun h => step_read_refused h ha, fun h hne => ?_⟩
    · rw [step_issue h]
      exact fetchWrite_refuses ha v _
    · rw [step_writeLastRead h hne]
      exact fetchWrite_refuses ha _ _

/-- Settles O8: the three cases of R29 are the machine's rejected, illegal and accepted command writes. -/
theorem commandWriteIsJudgedByBusyThenLegality : Obligations.CommandWriteIsJudgedByBusyThenLegality := by
  intro s v rest h
  exact ⟨fun hb => step_reject h hb, fun hb hill => step_illegal h hb hill, fun hb i hd => step_accept h hb hd⟩

/-- Settles O7: a read leaves `regRead` of the state in which the line is issued. -/
theorem readsHaveNoSideEffect : Obligations.ReadsHaveNoSideEffect := by
  intro s rest
  exact ⟨fun h => step_read (r := .cmd) h rfl, fun h => step_read (r := .dataIn) h rfl,
    fun h => step_read (r := .result) h rfl, fun h => step_read (r := .status) h rfl⟩

/-- Settles O9: on a turn of a stream or of the block the step is the sequencer's, which never reads DATA_IN. -/
theorem dataInIsPlainAndUnreadByARunningOperation : Obligations.DataInIsPlainAndUnreadByARunningOperation := by
  refine ⟨fun s v rest h => ?_, fun s rest h => step_read (r := .dataIn) h rfl, ?_⟩
  · rw [step_write h]
    rfl
  · intro s t turn v he hn hb h
    exact step_writeDataIn v he hn hb h

/-- Settles O10: RESULT's own inversion of the step, and the register port's rules. -/
theorem resultIsWrittenOnlyByCompletion : Obligations.ResultIsWrittenOnlyByCompletion := by
  refine ⟨fun s v rest h => ?_, fun s rest h => step_read (r := .result) h rfl, ?_⟩
  · rw [step_write h]
    rfl
  · intro s t h hne
    exact (step_result h).resolve_left hne

/-! ### The streams -/

/-- Settles O29: a block that offers an octet is transmitting, and `step_offer` says what can end the offer. -/
theorem txPortOffersTheCurrentOctet : Obligations.TxPortOffersTheCurrentOctet := by
  refine ⟨fun s => ?_, fun s hv => if_pos hv, fun s t hi hv h => step_offer hi.busy_iff_exec hv h, fun s hv hn => ?_⟩
  · rw [txValid_iff, isTxOp_iff]
  · rw [step_transmit hv hn trivial, txData, if_pos hv]
    rfl

/-- Settles O30: a block that asks for an octet is receiving, and no other effect of a step takes one. -/
theorem rxPortTakesOnlyWhatWasAsked : Obligations.RxPortTakesOnlyWhatWasAsked := by
  refine ⟨fun s => ?_, fun s b hr hn => ?_, fun s t h hne => (step_rxTaken h).resolve_left hne⟩
  · rw [rxReady_iff, isRxOp_iff]
  · rw [step_receive hr hn trivial]
    rfl

/-- Settles O31: the transfer answers an error by the abort, and a stream not waited on is passed over. -/
theorem streamErrorsAreSampledOnlyWhileWaiting : Obligations.StreamErrorsAreSampledOnlyWhileWaiting := by
  refine ⟨fun s h => step_abort h, fun s ready err hv hn => ?_, fun s valid err b hr hn => ?_⟩
  · exact step_pass hn trivial (by simp) (fun h => nomatch hv.symm.trans h) (fun _ => rfl)
  · exact step_pass hn trivial (by simp) (fun _ => rfl) (fun h => nomatch hr.symm.trans h)

/-! ### Completion -/

/-- Settles O35: the step is the operation's `completion`, a codec operation's or one that reports a header. -/
theorem completionDeliversAndReports : Obligations.CompletionDeliversAndReports := by
  intro s i hc hi
  obtain ⟨hdone, hbusy, hrest⟩ := completion_status hi (takeTurn .block s)
  refine ⟨_, step_completion hc hi, completion_frame hi _, hdone, hbusy, hrest, ?_, ?_, ?_, ?_, ?_⟩
  · intro hrd
    fin_cases hrd <;> rfl
  · intro hhdr
    fin_cases hhdr <;> rfl
  · intro hkeep
    fin_cases hkeep <;> rfl
  · intro hcodec j h8 h13
    rw [completion_status_codec hcodec, getLsbD_completedStatus, if_neg (by omega), if_neg (by omega)]
    rfl
  · intro w hw
    exact flagsOf_completed (completion_status_reports (s := takeTurn .block s) hw)

/-! ### The bits of STATUS -/

/-- Settles O38: by the inversion of the step for STATUS; a completion that reports a header writes all six flags. -/
theorem headerFlagsChangeOnlyByHeaderCompletion : Obligations.HeaderFlagsChangeOnlyByHeaderCompletion := by
  rintro s t h ⟨j, h8, h13, hne⟩
  refine ((step_status h).of_headerFlag_ne h8 h13 hne).imp id ?_
  rintro ⟨due, i, w, hop, hr, hst⟩
  exact ⟨due, i, w, hop, hr, flagsOf_completed hst⟩

/-- Settles O39: the abort's STATUS has bit 16 set, and no other change of STATUS sets it. -/
theorem desyncIsSetByAbortAndSticky : Obligations.DesyncIsSetByAbortAndSticky := by
  refine ⟨fun s t ha h => ?_, fun s t h => (step_status h).of_sticky_cleared (.inl rfl),
    fun s t h => (step_status h).of_desync_set⟩
  obtain ⟨turn, -, hstep⟩ := step_abort ha
  cases h.symm.trans hstep
  simp [State.desync]

/-- Settles O40: the rejected write's STATUS has bit 17 set, and no other change of STATUS sets it. -/
theorem rejIsSetByRejectionAndSticky : Obligations.RejIsSetByRejectionAndSticky := by
  refine ⟨fun s t v hw hb h => ?_, fun s t h => (step_status h).of_sticky_cleared (.inr rfl),
    fun s t h => (step_status h).of_rej_set⟩
  obtain ⟨rest, hw⟩ := hostWrites_iff.1 hw
  cases h.symm.trans (step_reject hw hb)
  simp [State.rej]

/-- Settles O41: every effect keeps BUSY equal to SEQ=EXEC, and the inversion of the step for STATUS names what sets and
what clears bit 0. -/
theorem busyFollowsTheSequencer : Obligations.BusyFollowsTheSequencer := by
  refine ⟨fun s t hinv h => ?_, fun s t h => (step_status h).of_busy_set, fun s t h => (step_status h).of_busy_cleared⟩
  obtain ⟨turn, p, -, -, e⟩ := step_effect h
  exact effect_busy_iff_exec e hinv.busy_iff_exec

/-! ### Reset -/

/-- Settles O1: a reset step is `resetBlock` on the state in which the turn is taken. -/
theorem resetClearsTheBlock : Obligations.ResetClearsTheBlock := by
  refine ⟨fun s hn => ⟨_, step_reset hn, rfl, rfl, rfl, rfl, rfl, rfl, rfl, rfl, rfl, rfl, rfl⟩, ?_, ?_⟩
  · rintro t rfl
    decide
  · intro s hn
    simp [step, fetch, hn, fetchTurn]

end Sys2Proof.Proofs

/-! SUPPORT for the statements of the family 20_memory: runs of the machine step by step, the run that accepts a command,
and the runs in which a sink takes octets, a source supplies them, or one of them errs. -/

namespace Sys2Proof.Machine

open Sys2Proof.Safety

/-! ### Runs -/

@[simp] theorem runs_zero (s : State) : runs 0 s = .next s := rfl

/-- A run of any machine behind the host's interface goes on from the state its first step leaves. -/
theorem core_run_succ (M : Host.Core) {s t : M.State} (h : M.step s = .next t) (k : Nat) :
    M.run (k + 1) s = M.run k t := by
  simp [Host.Core.run, h]

/-- A run goes on from the state its first step leaves. -/
theorem runs_succ {s t : State} (h : step s = .next t) (k : Nat) : runs (k + 1) s = runs k t :=
  core_run_succ core h k

/-- A run that ends in a state has a first step. -/
theorem step_of_runs_succ {k : Nat} {s t : State} (h : runs (k + 1) s = .next t) :
    ∃ u, step s = .next u ∧ runs k u = .next t := by
  cases hs : core.step s with
  | next u => exact ⟨u, hs, runs_succ hs k ▸ h⟩
  | fault r => simp [runs, Host.Core.run, hs] at h
  | refused r => simp [runs, Host.Core.run, hs] at h

/-- A run goes on from the state its first part ends in. -/
theorem runs_add {j : Nat} {s t : State} (h : runs j s = .next t) (k : Nat) : runs (j + k) s = runs k t := by
  induction j generalizing s with
  | zero =>
    cases h
    rw [Nat.zero_add]
  | succ j ih =>
    obtain ⟨u, hs, hu⟩ := step_of_runs_succ h
    rw [Nat.succ_add, runs_succ hs, ih hu]

/-! ### The accepted command -/

/-- The state in which an idle block has accepted operation `i` from the host's line (10_state R29). -/
def accepted (i : Instr) (prog : List HostLine) (s : State) : State :=
  acceptCommand ((encode i).extractLsb' 0 4) (BitVec.ofNat 3 (octets i)) (issued prog s)

/-- N holds the number of octets of any operation (10_state R45). -/
theorem toNat_ofNat_octets (i : Instr) : (BitVec.ofNat 3 (octets i)).toNat = octets i := by
  cases i <;> rfl

/-- A run that starts with the host's write of an operation's word to an idle block. -/
theorem runs_accept {s : State} {i : Instr} {prog : List HostLine} {turns : List Turn}
    (hd : decodeCommand (encode i) = .ok i) (hb : s.busy = false) (hp : s.program = .write 0x00 32 (encode i) :: prog)
    (hs : s.schedule = .host :: turns) (k : Nat) : runs (k + 1) s = runs k (accepted i prog s) :=
  runs_succ (step_accept (.inl ⟨hp, nextTurn_cons hs⟩) hb hd) k

/-- A TX operation's word is legal and selects a TX operation (30_encoding R72). -/
theorem encode_txOp {i : Instr} (hi : i ∈ [.wrU8, .wrU16, .wrU32, .sendHdr]) :
    decodeCommand (encode i) = .ok i ∧ isTxOp ((encode i).extractLsb' 0 4) = true := by
  fin_cases hi <;> exact ⟨rfl, rfl⟩

/-- An RX operation's word is legal and selects an RX operation (R72). -/
theorem encode_rxOp {i : Instr} (hi : i ∈ [.rdU8, .rdU16, .rdU32]) :
    decodeCommand (encode i) = .ok i ∧ isRxOp ((encode i).extractLsb' 0 4) = true := by
  fin_cases hi <;> exact ⟨rfl, rfl⟩

/-- What an accepted TX operation sends: its copy of DATA_IN, or the header with that opcode (40_codec R91). -/
theorem txWord_accepted {i : Instr} (hi : i ∈ [.wrU8, .wrU16, .wrU32, .sendHdr]) (prog : List HostLine) (s : State) :
    txWord (accepted i prog s) = if i = .sendHdr then hdr (s.dataIn.extractLsb' 0 8) else s.dataIn := by
  fin_cases hi <;> rfl

/-! ### The runs of a transfer -/

/-- K after `m` more octets, while that is no more than N: the counter does not wrap (10_state R45). -/
theorem toNat_add_ofNat_of_le {k n : BitVec 3} {m : Nat} (h : k.toNat + m ≤ n.toNat) :
    (k + BitVec.ofNat 3 m).toNat = k.toNat + m := by
  have hn : n.toNat < 8 := n.isLt
  rw [BitVec.toNat_add, BitVec.toNat_ofNat, Nat.add_mod_mod]
  exact Nat.mod_eq_of_lt (by omega)

/-- K after one more octet, while there is one left (10_state R30). -/
theorem toNat_add_one_of_lt {k n : BitVec 3} (h : k.toNat < n.toNat) : (k + 1).toNat = k.toNat + 1 :=
  toNat_add_ofNat_of_le (m := 1) h

/-- Advancing K by one octet and then by `m` advances it by `m + 1`. -/
theorem add_one_add_ofNat (k : BitVec 3) (m : Nat) : k + 1 + BitVec.ofNat 3 m = k + BitVec.ofNat 3 (m + 1) := by
  rw [BitVec.add_assoc, Nat.add_comm m 1, BitVec.ofNat_add]
  rfl

/-- The octets from `w_k` on are `w_k` and those after it. -/
theorem drop_octetsOf {n k : Nat} (h : k < n) (v : Word) :
    (octetsOf n v).drop k = octetAt n k v :: (octetsOf n v).drop (k + 1) := by
  rw [List.drop_eq_getElem_cons (by simpa [octetsOf] using h)]
  simp [octetsOf]

/-- The state in which a sink has taken `m` more octets of a running transmission. -/
def sent (m : Nat) (turn : Turn) (later : List Turn) (s : State) : State :=
  { s with
    k := s.k + BitVec.ofNat 3 m
    txWire := s.txWire ++ ((octetsOf s.n.toNat (txWord s)).drop s.k.toNat).take m
    turn := turn
    schedule := later }

/-- The state in which a source has supplied the octets `bs` to a running reception. -/
def received (bs : List Octet) (turn : Turn) (later : List Turn) (s : State) : State :=
  { s with
    k := s.k + BitVec.ofNat 3 bs.length
    acc := bs.foldl shiftIn s.acc
    rxTaken := s.rxTaken ++ bs
    turn := turn
    schedule := later }

/-- A sink that takes the next octet and then `m` more has taken `m + 1`. -/
theorem sent_putOctet {s : State} (hk : s.k.toNat < s.n.toNat) (m : Nat) (turn t : Turn) (later : List Turn) :
    sent m turn later (putOctet (octetAt s.n.toNat s.k.toNat (txWord s)) (takeTurn t s)) = sent (m + 1) turn later s := by
  have hwire (b : Octet) : s.txWire ++ [b] ++ ((octetsOf s.n.toNat (txWord s)).drop (s.k + 1).toNat).take m =
      s.txWire ++ (b :: (octetsOf s.n.toNat (txWord s)).drop (s.k.toNat + 1)).take (m + 1) := by
    rw [toNat_add_one_of_lt hk, List.append_assoc, List.singleton_append, List.take_succ_cons]
  unfold sent
  rw [drop_octetsOf hk, ← hwire, ← add_one_add_ofNat]
  rfl

/-- A source that supplies `b` and then `bs` has supplied `b :: bs`. -/
theorem received_takeOctet (b : Octet) (bs : List Octet) (turn t : Turn) (later : List Turn) (s : State) :
    received bs turn later (takeOctet b (takeTurn t s)) = received (b :: bs) turn later s := by
  unfold received
  rw [List.length_cons, ← add_one_add_ofNat, List.append_cons]
  rfl

/-- A sink without errors takes one octet on each turn on which it is ready, while octets are left, and none on any
other (10_state R41, 40_codec R98). -/
theorem runs_sink {s : State} {readies : List Bool} {later : List Turn} (he : s.seq = .exec)
    (hop : isTxOp s.op = true) (hk : s.k.toNat + readies.count true ≤ s.n.toNat)
    (hs : s.schedule = readies.map (fun r => Turn.txSink r false) ++ later) :
    ∃ turn, runs readies.length s = .next (sent (readies.count true) turn later s) := by
  induction readies generalizing s with
  | nil =>
    obtain rfl : s.schedule = later := hs
    exact ⟨s.turn, by simp [sent]⟩
  | cons r rs ih =>
    have hn : nextTurn s = some (.txSink r false) := nextTurn_cons hs
    have hrest : (takeTurn (.txSink r false) s).schedule = rs.map (fun r => Turn.txSink r false) ++ later :=
      congrArg List.tail hs
    cases r with
    | false =>
      have hstep := step_pass hn trivial (by simp) (fun _ => rfl) (fun _ => rfl)
      obtain ⟨turn, hrun⟩ := ih (s := takeTurn (.txSink false false) s) he hop (by simpa using hk) hrest
      exact ⟨turn, (runs_succ hstep _).trans (by rw [List.count_cons_of_ne (by simp)]; exact hrun)⟩
    | true =>
      rw [List.count_cons_self] at hk
      have hlt : s.k.toNat < s.n.toNat := by omega
      have hstep := step_transmit (txValid_iff.2 ⟨he, hlt, hop⟩) hn trivial
      have hk' : (s.k + 1).toNat + rs.count true ≤ s.n.toNat := by
        rw [toNat_add_one_of_lt hlt]
        omega
      obtain ⟨turn, hrun⟩ :=
        ih (s := putOctet (octetAt s.n.toNat s.k.toNat (txWord s)) (takeTurn (.txSink true false) s)) he hop hk' hrest
      rw [sent_putOctet hlt] at hrun
      exact ⟨turn, (runs_succ hstep _).trans (by rw [List.count_cons_self]; exact hrun)⟩

/-- A sink that is always ready takes one octet a turn. -/
theorem runs_readySink {s : State} {m : Nat} {later : List Turn} (he : s.seq = .exec) (hop : isTxOp s.op = true)
    (hk : s.k.toNat + m ≤ s.n.toNat) (hs : s.schedule = readySink m ++ later) :
    ∃ turn, runs m s = .next (sent m turn later s) := by
  have hrun := runs_sink (readies := List.replicate m true) (later := later) he hop (by simpa using hk)
    (by simpa [readySink] using hs)
  simpa using hrun

/-- A source without errors that is always valid has one octet taken a turn, while octets are left (10_state R42). -/
theorem runs_supplyingSource {s : State} {bs : List Octet} {later : List Turn} (he : s.seq = .exec)
    (hop : isRxOp s.op = true) (hk : s.k.toNat + bs.length ≤ s.n.toNat) (hs : s.schedule = supplyingSource bs ++ later) :
    ∃ turn, runs bs.length s = .next (received bs turn later s) := by
  induction bs generalizing s with
  | nil =>
    obtain rfl : s.schedule = later := hs
    exact ⟨s.turn, by simp [received]⟩
  | cons b bs ih =>
    have hn : nextTurn s = some (.rxSource true false b) := nextTurn_cons hs
    rw [List.length_cons] at hk
    have hlt : s.k.toNat < s.n.toNat := by omega
    have hstep := step_receive (rxReady_iff.2 ⟨he, hlt, hop⟩) hn trivial
    have hk' : (s.k + 1).toNat + bs.length ≤ s.n.toNat := by
      rw [toNat_add_one_of_lt hlt]
      omega
    obtain ⟨turn, hrun⟩ :=
      ih (s := takeOctet b (takeTurn (.rxSource true false b) s)) he hop hk' (congrArg List.tail hs)
    rw [received_takeOctet] at hrun
    exact ⟨turn, (runs_succ hstep _).trans hrun⟩

/-! ### The run that aborts -/

/-- An abort of an accepted command leaves TERR and DESYNC, no other outcome, and the rest of STATUS (R29, 60_exceptions
R163). -/
theorem raiseTransportError_outcome {st : Word} {s : State} (h : s.status = acceptedStatus st) :
    (raiseTransportError s).busy = false ∧ (raiseTransportError s).doneBit = false ∧
      (raiseTransportError s).terr = true ∧ (raiseTransportError s).ill = false ∧
      (raiseTransportError s).desync = true ∧
      ∀ b, 4 ≤ b → b ≠ 16 → (raiseTransportError s).status.getLsbD b = st.getLsbD b := by
  unfold State.busy State.doneBit State.terr State.ill State.desync
  rw [raiseTransportError_status, h]
  refine ⟨by simp, by simp, by simp, by simp, by simp, fun b h4 h16 => ?_⟩
  have h0 : b ≠ 0 := by omega
  have h1 : b ≠ 1 := by omega
  have h2 : b ≠ 2 := by omega
  have h3 : b ≠ 3 := by omega
  simp [h0, h1, h2, h3, h16]

/-- A sink that takes `m` octets and then errs aborts a transmission that has more to send, with those octets on the wire
(R43, R163). -/
theorem runs_sink_error {s : State} {m : Nat} {ready : Bool} {later : List Turn} (he : s.seq = .exec)
    (hop : isTxOp s.op = true) (hk : s.k.toNat + m < s.n.toNat)
    (hs : s.schedule = readySink m ++ .txSink ready true :: later) :
    runs (m + 1) s = .next (raiseTransportError (sent m (.txSink ready true) later s)) := by
  obtain ⟨turn, hrun⟩ := runs_readySink he hop hk.le hs
  have hlt : (s.k + BitVec.ofNat 3 m).toNat < s.n.toNat := by rwa [toNat_add_ofNat_of_le hk.le]
  rw [runs_add hrun]
  exact runs_succ (step_transmit (s := sent m turn (.txSink ready true :: later) s) (txValid_iff.2 ⟨he, hlt, hop⟩)
    (nextTurn_cons rfl) trivial) 0

/-- A source that supplies the octets `bs` and then errs aborts a reception that has more to take, with those octets
taken (R43, R163). -/
theorem runs_source_error {s : State} {bs : List Octet} {valid : Bool} {data : Octet} {later : List Turn}
    (he : s.seq = .exec) (hop : isRxOp s.op = true) (hk : s.k.toNat + bs.length < s.n.toNat)
    (hs : s.schedule = supplyingSource bs ++ .rxSource valid true data :: later) :
    runs (bs.length + 1) s = .next (raiseTransportError (received bs (.rxSource valid true data) later s)) := by
  obtain ⟨turn, hrun⟩ := runs_supplyingSource he hop hk.le hs
  have hlt : (s.k + BitVec.ofNat 3 bs.length).toNat < s.n.toNat := by rwa [toNat_add_ofNat_of_le hk.le]
  rw [runs_add hrun]
  exact runs_succ (step_receive (s := received bs turn (.rxSource valid true data :: later) s)
    (rxReady_iff.2 ⟨he, hlt, hop⟩) (nextTurn_cons rfl) trivial) 0

end Sys2Proof.Machine

/-! PROOFS. The statements of the family 20_memory. -/

namespace Sys2Proof.Proofs

open Sys2Proof Sys2Proof.Machine Sys2Proof.Safety

/-- Settles O48: the accepted operation moves its octets one a turn, and the error's turn is the abort, which touches
STATUS and SEQ only. -/
theorem abortKeepsWhatMovedAndDeliversNothing : Obligations.AbortKeepsWhatMovedAndDeliversNothing := by
  constructor
  · intro s i j ready prog later hi hj hb hp hs
    obtain ⟨hd, hop⟩ := encode_txOp hi
    have hk : 0 + j < (BitVec.ofNat 3 (octets i)).toNat := by rwa [toNat_ofNat_octets, Nat.zero_add]
    have hwire : ((octetsOf (BitVec.ofNat 3 (octets i)).toNat (txWord (accepted i prog s))).drop 0).take j =
        (octetsOf (octets i) (if i = .sendHdr then hdr (s.dataIn.extractLsb' 0 8) else s.dataIn)).take j := by
      rw [toNat_ofNat_octets, txWord_accepted hi, List.drop_zero]
    have hrun := runs_sink_error (s := accepted i prog s) rfl hop hk (congrArg List.tail hs)
    obtain ⟨hbusy, hdone, hterr, hill, hdesync, hrest⟩ :=
      raiseTransportError_outcome (s := sent j (.txSink ready true) later (accepted i prog s))
        (st := s.status) rfl
    refine ⟨_, (runs_accept hd hb hp hs _).trans hrun, congrArg (s.txWire ++ ·) hwire, rfl, rfl, rfl, rfl, ?_⟩
    exact ⟨hbusy, hdone, hterr, hill, hdesync, rfl, hrest⟩
  · intro s i bs valid b0 prog later hi hlen hb hp hs
    obtain ⟨hd, hop⟩ := encode_rxOp hi
    have hk : 0 + bs.length < (BitVec.ofNat 3 (octets i)).toNat := by rwa [toNat_ofNat_octets, Nat.zero_add]
    have hrun := runs_source_error (s := accepted i prog s) rfl hop hk (congrArg List.tail hs)
    obtain ⟨hbusy, hdone, hterr, hill, hdesync, hrest⟩ :=
      raiseTransportError_outcome (s := received bs (.rxSource valid true b0) later (accepted i prog s))
        (st := s.status) rfl
    refine ⟨_, (runs_accept hd hb hp hs _).trans hrun, rfl, rfl, rfl, rfl, rfl, ?_⟩
    exact ⟨hbusy, hdone, hterr, hill, hdesync, rfl, hrest⟩

end Sys2Proof.Proofs

/-! SUPPORT for the statements of the family 30_encoding: which OP values are operations, the operation map, and the
assembler on a line with and without an operand check. -/

namespace Sys2Proof

/-- The OP values that name an operation (30_encoding R72); the other seven are reserved (R70). -/
theorem exists_decodeOp_iff (c : BitVec 4) :
    (∃ i, decodeOp c = .ok i) ↔ c ∈ [0x1#4, 0x2#4, 0x3#4, 0x5#4, 0x6#4, 0x7#4, 0x8#4, 0x9#4, 0xA#4] := by
  simp [decodeOp_ok_iff, exists_or]

/-- A word is legal exactly if RSV is 0 and OP names an operation (R71). -/
theorem exists_decodeCommand_iff (v : Word) :
    (∃ i, decodeCommand v = .ok i) ↔ v.extractLsb' 4 28 = 0#28 ∧ ∃ i, decodeOp (v.extractLsb' 0 4) = .ok i := by
  simp only [decodeCommand_ok_iff, exists_and_left]

/-- The operation map of R72: each operation, its command word and its number of octets. -/
def operationMap : List (Instr × Word × Nat) :=
  [(.wrU8, 0x1, 1), (.wrU16, 0x2, 2), (.wrU32, 0x3, 4), (.rdU8, 0x5, 1), (.rdU16, 0x6, 2), (.rdU32, 0x7, 4),
    (.buildHdr, 0x8, 0), (.sendHdr, 0x9, 4), (.checkHdr, 0xA, 0)]

/-- The operation an OP value names, with that value under 28 zeros, is a row of the operation map. -/
theorem decodeOp_mem_operationMap {c : BitVec 4} {i : Instr} (h : decodeOp c = .ok i) :
    (i, 0#28 ++ c, octets i) ∈ operationMap := by
  rcases (decodeOp_ok_iff c i).1 h with
    ⟨rfl, rfl⟩ | ⟨rfl, rfl⟩ | ⟨rfl, rfl⟩ | ⟨rfl, rfl⟩ | ⟨rfl, rfl⟩ | ⟨rfl, rfl⟩ | ⟨rfl, rfl⟩ | ⟨rfl, rfl⟩ | ⟨rfl, rfl⟩ <;>
  decide

/-- The operation a legal word selects, with that word, is a row of the operation map. -/
theorem decodeCommand_mem_operationMap {v : Word} {i : Instr} (h : decodeCommand v = .ok i) :
    (i, v, octets i) ∈ operationMap := by
  obtain ⟨hrsv, hop⟩ := (decodeCommand_ok_iff v i).1 h
  rw [word_eq_fields v, hrsv]
  exact decodeOp_mem_operationMap hop

namespace Machine

/-- A line whose operand check is `p` assembles to its expansion exactly if `p` holds, and is a syntax error otherwise
(R82). -/
theorem assembleLine_of_check {l : AsmLine} {p : Prop} [Decidable p] (h : l.wellFormed = decide p) :
    assembleLine l = if p then .ok (expansion l) else .error .operandCheck := by
  simp [assembleLine, h]

/-- A well-formed line assembles to its expansion. -/
theorem assembleLine_of_wellFormed {l : AsmLine} (h : l.wellFormed = true) : assembleLine l = .ok (expansion l) :=
  if_pos h

end Machine

end Sys2Proof

/-! PROOFS. The statements of the family 30_encoding. -/

namespace Sys2Proof.Proofs

open Sys2Proof Sys2Proof.Machine

/-- Settles O14: legality goes field by field, and a legal word is its OP value under 28 zeros. -/
theorem everyCommandWordIsOneOperationOrIllegal : Obligations.EveryCommandWordIsOneOperationOrIllegal := by
  intro v
  constructor
  · rw [exists_decodeCommand_iff, exists_decodeOp_iff]
  · exact fun i h => decodeCommand_mem_operationMap h

/-- Settles O57: each mnemonic's well-formedness is the range check of its immediate, and its expansion the lines of
R82. -/
theorem assemblerChecksOperands : Obligations.AssemblerChecksOperands := by
  intro imm
  exact ⟨assembleLine_of_check rfl, assembleLine_of_check rfl, assembleLine_of_check rfl,
    assembleLine_of_wellFormed rfl, assembleLine_of_wellFormed rfl, assembleLine_of_wellFormed rfl,
    assembleLine_of_check rfl, assembleLine_of_check rfl, assembleLine_of_check rfl⟩

end Sys2Proof.Proofs

/-! SUPPORT for the statements of the family 40_codec: the turns of a running operation as meanings of its instruction,
the octets of a value and the value of octets, and the runs of a whole codec operation. -/

namespace Sys2Proof.Machine

open Sys2Proof.Safety

/-! ### The turns of one operation -/

/-- The host's turn on an idle block starts the operation (10_state R29). -/
theorem exec_accept {c : BitVec 4} {i : Instr} {s : State} (hi : decodeOp c = .ok i) (ht : s.turn = .host)
    (hb : s.busy = false) : exec i s = .next (acceptCommand c (BitVec.ofNat 3 (octets i)) s) := by
  cases i <;> simp [decodeOp_ok_iff] at hi <;> subst hi <;>
    simp [exec, execWrU8, execWrU16, execWrU32, execRdU8, execRdU16, execRdU32, execBuildHdr, execSendHdr, execCheckHdr,
      runOperation, commandWrite, ht, hb, octets]

/-- Operation `i` runs and has moved `j` of its octets (10_state R29, R30). -/
structure Running (i : Instr) (j : Nat) (s : State) : Prop where
  seq : s.seq = .exec
  op : s.op = (encode i).extractLsb' 0 4
  n : s.n = BitVec.ofNat 3 (octets i)
  k : s.k = BitVec.ofNat 3 j

/-- No operation has more octets than K can count (R45). -/
theorem octets_lt (i : Instr) : octets i < 8 := toNat_ofNat_octets i ▸ (BitVec.ofNat 3 (octets i)).isLt

namespace Running

variable {i : Instr} {j : Nat} {s : State}

/-- N as a number is the operation's number of octets. -/
theorem n_toNat (h : Running i j s) : s.n.toNat = octets i := by
  rw [h.n, toNat_ofNat_octets]

/-- K as a number is the number of octets moved. -/
theorem k_toNat (h : Running i j s) (hj : j < octets i) : s.k.toNat = j := by
  rw [h.k, BitVec.toNat_ofNat, Nat.mod_eq_of_lt (hj.trans (octets_lt i))]

/-- While octets are left, K is below N. -/
theorem k_lt_n (h : Running i j s) (hj : j < octets i) : s.k.toNat < s.n.toNat := by
  rwa [h.k_toNat hj, h.n_toNat]

/-- K after one more octet. -/
theorem k_succ (h : Running i j s) : s.k + 1 = BitVec.ofNat 3 (j + 1) := by
  rw [h.k, BitVec.ofNat_add]
  rfl

/-- The operation OP names. -/
theorem decodeOp_eq (h : Running i j s) (hd : decodeCommand (encode i) = .ok i) : decodeOp s.op = .ok i := by
  rw [h.op]
  exact ((decodeCommand_ok_iff _ _).1 hd).2

/-- A codec write sends its operand (40_codec R91). -/
theorem txWord_eq_opnd (h : Running i j s) (hi : i ∈ [.wrU8, .wrU16, .wrU32]) : txWord s = s.opnd := by
  unfold txWord
  rw [h.op]
  fin_cases hi <;> rfl

/-- While a sending operation has octets left, a turn that is not the host's is `TxPut` of the next one (R30). -/
theorem exec_transmit (h : Running i j s) (hi : i ∈ [.wrU8, .wrU16, .wrU32, .sendHdr]) (hj : j < octets i)
    (ht : s.turn ≠ .host) : exec i s = .next (transmit (txWord s) s) := by
  obtain ⟨hd, htx⟩ := encode_txOp hi
  rw [exec_running (h.decodeOp_eq hd) h.seq ht, runningStep_of_lt (h.k_lt_n hj), runningTransfer, h.op, if_pos htx]

/-- While a read has octets left, a turn that is not the host's is `RxGet` of the next one (R30). -/
theorem exec_receive (h : Running i j s) (hi : i ∈ [.rdU8, .rdU16, .rdU32]) (hj : j < octets i)
    (ht : s.turn ≠ .host) : exec i s = .next (receive s) := by
  obtain ⟨hd, hrx⟩ := encode_rxOp hi
  have htx : isTxOp ((encode i).extractLsb' 0 4) ≠ true := by
    intro htx
    exact absurd hrx (by simp [isRxOp_eq_false_of_isTxOp htx])
  rw [exec_running (h.decodeOp_eq hd) h.seq ht, runningStep_of_lt (h.k_lt_n hj), runningTransfer, h.op, if_neg htx,
    if_pos hrx]

/-- The sink accepts the next octet of what the operation sends (R41). -/
theorem exec_sink_ready (h : Running i j s) (hi : i ∈ [.wrU8, .wrU16, .wrU32, .sendHdr]) (hj : j < octets i)
    (ht : s.turn = .txSink true false) :
    exec i s = .next { s with
      txWire := s.txWire ++ [octetAt (octets i) j (txWord s)], k := BitVec.ofNat 3 (j + 1) } := by
  rw [h.exec_transmit hi hj (by simp [ht]), ← h.k_succ]
  simp [transmit, txAnswer, putOctet, ht, h.n_toNat, h.k_toNat hj]

/-- A codec write sends the octets of its operand, most significant first (40_codec R92 to R94). -/
theorem exec_write_ready (h : Running i j s) (hi : i ∈ [.wrU8, .wrU16, .wrU32]) (hj : j < octets i)
    (ht : s.turn = .txSink true false) :
    exec i s = .next { s with
      txWire := s.txWire ++ [octetAt (octets i) j s.opnd], k := BitVec.ofNat 3 (j + 1) } := by
  rw [h.exec_sink_ready (List.mem_append_left [Instr.sendHdr] hi) hj ht, h.txWord_eq_opnd hi]

/-- A sink that does not answer changes nothing (R98). -/
theorem exec_sink_pause (h : Running i j s) (hi : i ∈ [.wrU8, .wrU16, .wrU32, .sendHdr]) (hj : j < octets i)
    (ht : s.turn = .txSink false false) : exec i s = .next s := by
  rw [h.exec_transmit hi hj (by simp [ht]), transmit, ht]
  rfl

/-- A sink that errs aborts the operation (10_state R43, 60_exceptions R163). -/
theorem exec_sink_error {ready : Bool} (h : Running i j s) (hi : i ∈ [.wrU8, .wrU16, .wrU32, .sendHdr])
    (hj : j < octets i) (ht : s.turn = .txSink ready true) : exec i s = .next (raiseTransportError s) := by
  rw [h.exec_transmit hi hj (by simp [ht]), transmit, ht]
  rfl

/-- The source supplies the next octet, which is shifted into ACC (R42, 40_codec R95 to R97). -/
theorem exec_source_valid {b : Octet} (h : Running i j s) (hi : i ∈ [.rdU8, .rdU16, .rdU32]) (hj : j < octets i)
    (ht : s.turn = .rxSource true false b) :
    exec i s = .next { s with
      acc := shiftIn s.acc b, rxTaken := s.rxTaken ++ [b], k := BitVec.ofNat 3 (j + 1) } := by
  rw [h.exec_receive hi hj (by simp [ht]), ← h.k_succ]
  simp [receive, rxAnswer, takeOctet, ht]

/-- A source that does not answer changes nothing (R98). -/
theorem exec_source_pause {b : Octet} (h : Running i j s) (hi : i ∈ [.rdU8, .rdU16, .rdU32]) (hj : j < octets i)
    (ht : s.turn = .rxSource false false b) : exec i s = .next s := by
  rw [h.exec_receive hi hj (by simp [ht]), receive, ht]
  rfl

/-- A source that errs aborts the operation (10_state R43, 60_exceptions R163). -/
theorem exec_source_error {valid : Bool} {b : Octet} (h : Running i j s) (hi : i ∈ [.rdU8, .rdU16, .rdU32])
    (hj : j < octets i) (ht : s.turn = .rxSource valid true b) : exec i s = .next (raiseTransportError s) := by
  rw [h.exec_receive hi hj (by simp [ht]), receive, ht]
  rfl

/-- The three answers of the source to a read with octets left: it supplies one, it pauses, or it errs. -/
theorem exec_read_turns (h : Running i j s) (hi : i ∈ [.rdU8, .rdU16, .rdU32]) (hj : j < octets i) :
    (∀ b, s.turn = .rxSource true false b → exec i s = .next { s with
      acc := shiftIn s.acc b, rxTaken := s.rxTaken ++ [b], k := BitVec.ofNat 3 (j + 1) }) ∧
    (∀ b, s.turn = .rxSource false false b → exec i s = .next s) ∧
    (∀ valid b, s.turn = .rxSource valid true b → exec i s = .next (raiseTransportError s)) :=
  ⟨fun _ ht => h.exec_source_valid hi hj ht, fun _ ht => h.exec_source_pause hi hj ht,
    fun _ _ ht => h.exec_source_error hi hj ht⟩

/-- With all octets moved, the block's turn is `complete()` (R33). -/
theorem exec_completion (h : Running i (octets i) s) (hd : decodeCommand (encode i) = .ok i) (ht : s.turn = .block) :
    exec i s = .next (completion i s) := by
  rw [exec_running (h.decodeOp_eq hd) h.seq (by simp [ht]), runningStep_of_eq (h.k.trans h.n.symm) ht]

end Running

/-! ### The octets of a value and the value of octets -/

/-- The bits of ACC after an octet is shifted in (R30). -/
theorem getLsbD_shiftIn (acc : Word) (b : Octet) (j : Nat) :
    (shiftIn acc b).getLsbD j = if j < 8 then b.getLsbD j else decide (j - 8 < 24) && acc.getLsbD (j - 8) := by
  rw [shiftIn, BitVec.getLsbD_append, BitVec.getLsbD_extractLsb', Nat.zero_add]

/-- The octets of a value are those of its upper part, then its lowest (40_codec R91). -/
theorem octetsOf_succ (n : Nat) (v : Word) : octetsOf (n + 1) v = octetsOf n (v >>> 8) ++ [v.extractLsb' 0 8] := by
  have hhigh (i : Nat) (hi : i ∈ List.range n) : octetAt (n + 1) i v = octetAt n i (v >>> 8) := by
    have hlt : i < n := List.mem_range.1 hi
    apply BitVec.eq_of_getLsbD_eq
    intro j _
    simp [octetAt, show 8 * (n - i) + j = 8 + (8 * (n - 1 - i) + j) by omega]
  have hlow : octetAt (n + 1) n v = v.extractLsb' 0 8 := by simp [octetAt]
  unfold octetsOf
  rw [List.range_succ, List.map_append, List.map_congr_left hhigh, List.map_singleton, hlow]

/-- Shifting an octet into a value puts it after the value's octets, while there is room (R30). -/
theorem octetsOf_shiftIn {n : Nat} (hn : n ≤ 3) (acc : Word) (b : Octet) :
    octetsOf (n + 1) (shiftIn acc b) = octetsOf n acc ++ [b] := by
  have hhigh (i : Nat) (hi : i ∈ List.range n) : octetAt n i (shiftIn acc b >>> 8) = octetAt n i acc := by
    have hlt : i < n := List.mem_range.1 hi
    apply BitVec.eq_of_getLsbD_eq
    intro j hj
    simp [octetAt, getLsbD_shiftIn, show 8 * (n - 1 - i) + j < 24 by omega]
  have hlow : (shiftIn acc b).extractLsb' 0 8 = b := by
    apply BitVec.eq_of_getLsbD_eq
    intro j hj
    simp [getLsbD_shiftIn, hj]
  rw [octetsOf_succ, hlow]
  exact congrArg (· ++ [b]) (List.map_congr_left hhigh)

/-- An octet read adds itself at the low end of the value (40_codec R95 to R97). -/
theorem valueOf_concat (bs : List Octet) (b : Octet) : valueOf (bs ++ [b]) = shiftIn (valueOf bs) b := by
  simp [valueOf]

/-- Reading back the low octets of a value gives the value's low octets, zero-extended (R99). -/
theorem valueOf_octetsOf (n : Nat) (v : Word) : valueOf (octetsOf n v) = lowOctets n v := by
  induction n generalizing v with
  | zero =>
    apply BitVec.eq_of_getLsbD_eq
    simp [octetsOf, valueOf, lowOctets]
  | succ n ih =>
    rw [octetsOf_succ, valueOf_concat, ih]
    apply BitVec.eq_of_getLsbD_eq
    intro j hj
    rw [getLsbD_shiftIn]
    by_cases h8 : j < 8
    · simp [lowOctets, h8, hj, show j < 8 * (n + 1) by omega]
    · simp [lowOctets, h8, hj, show j - 8 < 24 by omega, show j - 8 < 32 by omega, show 8 + (j - 8) = j by omega,
        show j - 8 < 8 * n ↔ j < 8 * (n + 1) by omega]

/-- The octets of the value read are the octets read (R99). -/
theorem octetsOf_valueOf {bs : List Octet} (h : bs.length ≤ 4) : octetsOf bs.length (valueOf bs) = bs := by
  induction bs using List.reverseRecOn with
  | nil => rfl
  | append_singleton bs b ih =>
    rw [List.length_append, List.length_singleton] at h ⊢
    rw [valueOf_concat, octetsOf_shiftIn (by omega), ih (by omega)]

/-- The value of four octets is their word in wire order (20_memory R53). -/
theorem valueOf_four (b0 b1 b2 b3 : Octet) : valueOf [b0, b1, b2, b3] = b0 ++ b1 ++ b2 ++ b3 := by
  obtain ⟨h0, h1, h2, h3⟩ := headerW_wordOfWire b0 b1 b2 b3
  have hoctets : octetsOf 4 (wordOfWire b0 b1 b2 b3) = [b0, b1, b2, b3] :=
    calc octetsOf 4 (wordOfWire b0 b1 b2 b3)
      _ = [headerW0 _, headerW1 _, headerW2 _, headerW3 _] := rfl
      _ = [b0, b1, b2, b3] := by rw [h0, h1, h2, h3]
  calc valueOf [b0, b1, b2, b3]
    _ = lowOctets 4 (wordOfWire b0 b1 b2 b3) := by rw [← hoctets, valueOf_octetsOf]
    _ = b0 ++ b1 ++ b2 ++ b3 := by simp [lowOctets, wordOfWire]

/-! ### The runs of a whole operation -/

/-- A completion leaves everything but RESULT, STATUS and SEQ as it was (R33). -/
@[simp] theorem completion_keeps (i : Instr) (s : State) :
    (completion i s).dataIn = s.dataIn ∧ (completion i s).op = s.op ∧ (completion i s).opnd = s.opnd ∧
    (completion i s).n = s.n ∧ (completion i s).k = s.k ∧ (completion i s).acc = s.acc ∧
    (completion i s).turn = s.turn ∧ (completion i s).schedule = s.schedule ∧
    (completion i s).program = s.program ∧ (completion i s).txWire = s.txWire ∧
    (completion i s).rxTaken = s.rxTaken ∧ (completion i s).reads = s.reads := by
  cases i <;> exact ⟨rfl, rfl, rfl, rfl, rfl, rfl, rfl, rfl, rfl, rfl, rfl, rfl⟩

/-- A sending operation accepted from the host and answered on every turn, when it has completed. -/
def transmitted (i : Instr) (prog : List HostLine) (later : List Turn) (s : State) : State :=
  completion i (sent (octets i) .block later (accepted i prog s))

/-- A read accepted from the host and supplied with the octets `bs`, when it has completed. -/
def readOut (i : Instr) (bs : List Octet) (prog : List HostLine) (later : List Turn) (s : State) : State :=
  completion i (received bs .block later (accepted i prog s))

/-- A run that accepts a sending operation, has a sink take its octets one a turn, and completes (R92 to R94, R113). -/
theorem runs_transmitted {s : State} {i : Instr} {prog : List HostLine} {later : List Turn}
    (hi : i ∈ [.wrU8, .wrU16, .wrU32, .sendHdr]) (hb : s.busy = false)
    (hp : s.program = .write 0x00 32 (encode i) :: prog)
    (hs : s.schedule = .host :: (readySink (octets i) ++ .block :: later)) :
    runs (octets i + 2) s = .next (transmitted i prog later s) := by
  obtain ⟨hd, hop⟩ := encode_txOp hi
  have hk : 0 + octets i ≤ (BitVec.ofNat 3 (octets i)).toNat := by rw [toNat_ofNat_octets, Nat.zero_add]
  obtain ⟨turn, hrun⟩ := runs_readySink (s := accepted i prog s) rfl hop hk (congrArg List.tail hs)
  have hdue : Completes (sent (octets i) turn (.block :: later) (accepted i prog s)) :=
    ⟨rfl, BitVec.zero_add _, nextTurn_cons rfl⟩
  rw [runs_accept hd hb hp hs, runs_add hrun]
  exact runs_succ (step_completion hdue ((decodeCommand_ok_iff _ _).1 hd).2) 0

/-- A run that accepts a read, has a source supply its octets one a turn, and completes (R95 to R97). -/
theorem runs_readOut {s : State} {i : Instr} {bs : List Octet} {prog : List HostLine} {later : List Turn}
    (hi : i ∈ [.rdU8, .rdU16, .rdU32]) (hlen : bs.length = octets i) (hb : s.busy = false)
    (hp : s.program = .write 0x00 32 (encode i) :: prog)
    (hs : s.schedule = .host :: (supplyingSource bs ++ .block :: later)) :
    runs (octets i + 2) s = .next (readOut i bs prog later s) := by
  obtain ⟨hd, hop⟩ := encode_rxOp hi
  have hk : 0 + bs.length ≤ (BitVec.ofNat 3 (octets i)).toNat := by rw [toNat_ofNat_octets, hlen, Nat.zero_add]
  obtain ⟨turn, hrun⟩ := runs_supplyingSource (s := accepted i prog s) rfl hop hk (congrArg List.tail hs)
  have hdue : Completes (received bs turn (.block :: later) (accepted i prog s)) :=
    ⟨rfl, (BitVec.zero_add _).trans (congrArg _ hlen), nextTurn_cons rfl⟩
  rw [runs_accept hd hb hp hs, ← hlen, runs_add hrun]
  exact runs_succ (step_completion hdue ((decodeCommand_ok_iff _ _).1 hd).2) 0

/-- A completed transmission has put all octets of what it sends on the wire, in wire order. -/
theorem transmitted_txWire (i : Instr) (prog : List HostLine) (later : List Turn) (s : State) :
    (transmitted i prog later s).txWire = s.txWire ++ octetsOf (octets i) (txWord (accepted i prog s)) := by
  have hall (v : Word) : (octetsOf (octets i) v).take (octets i) = octetsOf (octets i) v :=
    List.take_of_length_le (by simp [octetsOf])
  have hn : (accepted i prog s).n.toNat = octets i := toNat_ofNat_octets i
  have hk : (accepted i prog s).k.toNat = 0 := rfl
  have hsent : (sent (octets i) .block later (accepted i prog s)).txWire =
      s.txWire ++ octetsOf (octets i) (txWord (accepted i prog s)) := by
    rw [sent, hn, hk, List.drop_zero, hall]
    rfl
  simpa [transmitted] using hsent

/-- A completed transmission leaves the next line and the next turn as they were, and has taken nothing. -/
@[simp] theorem transmitted_keeps (i : Instr) (prog : List HostLine) (later : List Turn) (s : State) :
    (transmitted i prog later s).dataIn = s.dataIn ∧ (transmitted i prog later s).rxTaken = s.rxTaken ∧
    (transmitted i prog later s).reads = s.reads ∧ (transmitted i prog later s).program = prog ∧
    (transmitted i prog later s).schedule = later := by
  simp [transmitted, sent, accepted]

/-- A completed read has taken the octets supplied, and nothing is sent. -/
@[simp] theorem readOut_keeps (i : Instr) (bs : List Octet) (prog : List HostLine) (later : List Turn) (s : State) :
    (readOut i bs prog later s).dataIn = s.dataIn ∧ (readOut i bs prog later s).txWire = s.txWire ∧
    (readOut i bs prog later s).rxTaken = s.rxTaken ++ bs ∧ (readOut i bs prog later s).reads = s.reads ∧
    (readOut i bs prog later s).program = prog ∧ (readOut i bs prog later s).schedule = later := by
  simp [readOut, received, accepted]

/-- A completed read delivers the value of the octets supplied (R95 to R97). -/
theorem readOut_result {i : Instr} (hi : i ∈ [.rdU8, .rdU16, .rdU32]) (bs : List Octet) (prog : List HostLine)
    (later : List Turn) (s : State) : (readOut i bs prog later s).result = valueOf bs := by
  fin_cases hi <;> rfl

/-- A completed transmission leaves BUSY=0 (R33). -/
theorem transmitted_busy {i : Instr} (hd : decodeCommand (encode i) = .ok i) (prog : List HostLine)
    (later : List Turn) (s : State) : (transmitted i prog later s).busy = false :=
  (completion_status ((decodeCommand_ok_iff _ _).1 hd).2 _).2.1

/-- A completed read leaves BUSY=0 (R33). -/
theorem readOut_busy {i : Instr} (hd : decodeCommand (encode i) = .ok i) (bs : List Octet) (prog : List HostLine)
    (later : List Turn) (s : State) : (readOut i bs prog later s).busy = false :=
  (completion_status ((decodeCommand_ok_iff _ _).1 hd).2 _).2.1

/-- A codec write run from an idle block ends idle, with its operand's octets on the wire (R92 to R94). -/
theorem runs_write {s : State} {i : Instr} {prog : List HostLine} {later : List Turn}
    (hi : i ∈ [.wrU8, .wrU16, .wrU32]) (hb : s.busy = false) (hp : s.program = .write 0x00 32 (encode i) :: prog)
    (hs : s.schedule = .host :: (readySink (octets i) ++ .block :: later)) :
    ∃ t, runs (octets i + 2) s = .next t ∧ t.busy = false ∧ t.program = prog ∧ t.schedule = later ∧
      t.txWire = s.txWire ++ octetsOf (octets i) s.dataIn ∧ t.rxTaken = s.rxTaken := by
  have htx : i ∈ [.wrU8, .wrU16, .wrU32, .sendHdr] := List.mem_append_left [Instr.sendHdr] hi
  have hword : txWord (accepted i prog s) = s.dataIn := by
    rw [txWord_accepted htx, if_neg]
    rintro rfl
    simp at hi
  refine ⟨_, runs_transmitted htx hb hp hs, transmitted_busy (encode_txOp htx).1 .., ?_⟩
  simp [transmitted_txWire, hword]

/-- A codec read run from an idle block ends idle, with the value of the octets taken in RESULT (R95 to R97). -/
theorem runs_read {s : State} {i : Instr} {bs : List Octet} {prog : List HostLine} {later : List Turn}
    (hi : i ∈ [.rdU8, .rdU16, .rdU32]) (hlen : bs.length = octets i) (hb : s.busy = false)
    (hp : s.program = .write 0x00 32 (encode i) :: prog)
    (hs : s.schedule = .host :: (supplyingSource bs ++ .block :: later)) :
    ∃ t, runs (octets i + 2) s = .next t ∧ t.busy = false ∧ t.program = prog ∧ t.schedule = later ∧
      t.result = valueOf bs ∧ t.txWire = s.txWire ∧ t.rxTaken = s.rxTaken ++ bs := by
  refine ⟨_, runs_readOut hi hlen hb hp hs, readOut_busy (encode_rxOp hi).1 .., ?_⟩
  simp [readOut_result hi]

/-- The host reads RESULT and writes the value read to DATA_IN (log 13). -/
theorem runs_copy_result {s : State} {prog : List HostLine} {later : List Turn}
    (hp : s.program = .read 0x08 32 :: .writeLastRead 0x04 32 :: prog) (hs : s.schedule = .host :: .host :: later) :
    ∃ t, runs 2 s = .next t ∧ t.busy = s.busy ∧ t.program = prog ∧ t.schedule = later ∧
      t.dataIn = s.result ∧ t.txWire = s.txWire ∧ t.rxTaken = s.rxTaken := by
  have hread : step s = .next (regRead .result (issued (.writeLastRead 0x04 32 :: prog) s)) :=
    step_read (r := .result) ⟨hp, nextTurn_cons hs⟩ rfl
  have hwrite : AboutToWrite 0x04 s.result prog (regRead .result (issued (.writeLastRead 0x04 32 :: prog) s)) :=
    .inr ⟨⟨rfl, nextTurn_cons (congrArg List.tail hs)⟩, by simp [regValue]⟩
  refine ⟨_, (runs_succ hread 1).trans (runs_succ (step_write hwrite) 0), rfl, rfl, ?_, rfl, rfl, rfl⟩
  exact congrArg (·.tail.tail) hs

end Sys2Proof.Machine

/-! PROOFS. The statements of the family 40_codec. -/

namespace Sys2Proof.Proofs

open Sys2Proof Sys2Proof.Machine Sys2Proof.Safety

/-- The pairs of a write and a read of one width. -/
theorem loopback_pair {wr rd : Instr}
    (h : (wr, rd) ∈ [(Instr.wrU8, Instr.rdU8), (.wrU16, .rdU16), (.wrU32, .rdU32)]) :
    wr ∈ [.wrU8, .wrU16, .wrU32] ∧ rd ∈ [.rdU8, .rdU16, .rdU32] ∧ octets rd = octets wr ∧ octets wr ≤ 4 := by
  fin_cases h <;> decide

/-- Settles O52: the runs of the operations follow one another, and the value of a value's octets is its low octets, the
octets of the value of some octets those octets. -/
theorem loopbackReturnsTheValue : Obligations.LoopbackReturnsTheValue := by
  intro s wr rd prog later hpair hb
  obtain ⟨hwr, hrd, hoct, hle⟩ := loopback_pair hpair
  constructor
  · intro hp hs
    obtain ⟨t, hsend, htb, htp, hts, htx, -⟩ := runs_write hwr hb hp hs
    obtain ⟨u, hread, -, -, -, hres, hux, -⟩ := runs_read hrd (by simp [octetsOf, hoct]) htb htp hts
    refine ⟨u, ?_, hux.trans htx, hres.trans (valueOf_octetsOf _ _)⟩
    rw [show 2 * octets wr + 4 = octets wr + 2 + (octets rd + 2) by omega, runs_add hsend, hread]
  · intro bs hlen hp hs
    obtain ⟨t, hread, htb, htp, hts, hres, htx, htr⟩ := runs_read hrd hlen hb hp hs
    obtain ⟨u, hcopy, hub, hup, hus, hdata, hux, hur⟩ := runs_copy_result htp hts
    obtain ⟨v, hsend, -, -, -, hvx, hvr⟩ := runs_write hwr (hub.trans htb) hup hus
    have hwire : octetsOf (octets wr) u.dataIn = bs := by
      rw [hdata, hres, ← hoct, ← hlen, octetsOf_valueOf (by omega)]
    refine ⟨v, ?_, ?_, ?_⟩
    · rw [show 2 * octets wr + 6 = octets rd + 2 + (2 + (octets wr + 2)) by omega, runs_add hread, runs_add hcopy,
        hsend]
    · rw [hvx, hwire, hux, htx]
    · rw [hvr, hur, htr]

/-- Settles O17: WR_U8 accepts its command, puts OPND[7:0], and completes or aborts. -/
theorem wrU8SendsTheLowOctet : Obligations.WrU8SendsTheLowOctet := by
  intro s
  refine ⟨rfl, rfl, fun ht hb => exec_accept (c := 1) rfl ht hb, fun he hop hn => ?_⟩
  have running {j : Nat} (hk : s.k = BitVec.ofNat 3 j) : Running .wrU8 j s := ⟨he, hop, hn, hk⟩
  refine ⟨fun hk ht => ?_, fun hk ht => ?_, fun hk ready ht => ?_, fun hk ht => ?_⟩
  · exact (running hk).exec_write_ready (by decide) (by decide) ht
  · exact (running hk).exec_sink_pause (by decide) (by decide) ht
  · exact (running hk).exec_sink_error (by decide) (by decide) ht
  · exact (running (j := 1) hk).exec_completion rfl ht

/-- Settles O18: WR_U16 accepts its command, puts its two octets, and completes or aborts. -/
theorem wrU16SendsTwoOctetsHighFirst : Obligations.WrU16SendsTwoOctetsHighFirst := by
  intro s
  refine ⟨rfl, rfl, fun ht hb => exec_accept (c := 2) rfl ht hb, fun he hop hn => ?_⟩
  have running {j : Nat} (hk : s.k = BitVec.ofNat 3 j) : Running .wrU16 j s := ⟨he, hop, hn, hk⟩
  have left (hk : s.k = 0 ∨ s.k = 1) : ∃ j < 2, Running .wrU16 j s :=
    hk.elim (fun h => ⟨0, by decide, running h⟩) (fun h => ⟨1, by decide, running h⟩)
  refine ⟨fun hk ht => ?_, fun hk ht => ?_, fun hk ht => ?_, fun hk ready ht => ?_, fun hk ht => ?_⟩
  · exact (running (j := 0) hk).exec_write_ready (by decide) (by decide) ht
  · exact (running (j := 1) hk).exec_write_ready (by decide) (by decide) ht
  · obtain ⟨j, hj, hr⟩ := left hk
    exact hr.exec_sink_pause (by decide) hj ht
  · obtain ⟨j, hj, hr⟩ := left hk
    exact hr.exec_sink_error (by decide) hj ht
  · exact (running (j := 2) hk).exec_completion rfl ht

/-- Settles O19: WR_U32 accepts its command, puts its four octets, and completes or aborts. -/
theorem wrU32SendsFourOctetsHighFirst : Obligations.WrU32SendsFourOctetsHighFirst := by
  intro s
  refine ⟨rfl, rfl, fun ht hb => exec_accept (c := 3) rfl ht hb, fun he hop hn => ?_⟩
  have running {j : Nat} (hk : s.k = BitVec.ofNat 3 j) : Running .wrU32 j s := ⟨he, hop, hn, hk⟩
  refine ⟨fun j hj hk => ⟨fun ht => ?_, fun ht => ?_, fun ready ht => ?_⟩, fun hk ht => ?_⟩
  · rw [show 24 - 8 * j = 8 * (4 - 1 - j) by omega]
    exact (running hk).exec_write_ready (by decide) hj ht
  · exact (running hk).exec_sink_pause (by decide) hj ht
  · exact (running hk).exec_sink_error (by decide) hj ht
  · exact (running (j := 4) hk).exec_completion rfl ht

/-- Settles O20: RD_U8 accepts its command, takes its octet, and completes or aborts; one octet is the value of four with
three leading zeros. -/
theorem rdU8TakesOneOctet : Obligations.RdU8TakesOneOctet := by
  intro s
  refine ⟨rfl, rfl, fun ht hb => exec_accept (c := 5) rfl ht hb, fun he hop hn => ?_, fun b => valueOf_four 0 0 0 b⟩
  have running {j : Nat} (hk : s.k = BitVec.ofNat 3 j) : Running .rdU8 j s := ⟨he, hop, hn, hk⟩
  refine ⟨fun hk b ht => ?_, fun hk b ht => ?_, fun hk valid b ht => ?_, fun hk ht => ?_⟩
  · exact (running hk).exec_source_valid (by decide) (by decide) ht
  · exact (running hk).exec_source_pause (by decide) (by decide) ht
  · exact (running hk).exec_source_error (by decide) (by decide) ht
  · exact (running (j := 1) hk).exec_completion rfl ht

/-- Settles O21: RD_U16 accepts its command, takes its two octets, and completes or aborts; two octets are the value of
four with two leading zeros. -/
theorem rdU16TakesTwoOctetsHighFirst : Obligations.RdU16TakesTwoOctetsHighFirst := by
  intro s
  refine ⟨rfl, rfl, fun ht hb => exec_accept (c := 6) rfl ht hb, fun he hop hn => ?_,
    fun b0 b1 => valueOf_four 0 0 b0 b1⟩
  refine ⟨fun j hj hk => ?_, fun hk ht => ?_⟩
  · exact Running.exec_read_turns ⟨he, hop, hn, hk⟩ (by decide) hj
  · exact Running.exec_completion (i := .rdU16) ⟨he, hop, hn, hk⟩ rfl ht

/-- Settles O22: RD_U32 accepts its command, takes its four octets, and completes or aborts. -/
theorem rdU32TakesFourOctetsHighFirst : Obligations.RdU32TakesFourOctetsHighFirst := by
  intro s
  refine ⟨rfl, rfl, fun ht hb => exec_accept (c := 7) rfl ht hb, fun he hop hn => ?_, valueOf_four⟩
  refine ⟨fun j hj hk => ?_, fun hk ht => ?_⟩
  · exact Running.exec_read_turns ⟨he, hop, hn, hk⟩ (by decide) hj
  · exact Running.exec_completion (i := .rdU32) ⟨he, hop, hn, hk⟩ rfl ht

end Sys2Proof.Proofs

/-! SUPPORT for the statements of the family 41_framer: the header flags in the spec's terms, what a difference of two
header words does to them, and the turns of a framer operation. -/

namespace Sys2Proof

/-- NOT8 is the bitwise complement (00_scope R9). -/
theorem not8_eq_not (x : Octet) : not8 x = ~~~x := BitVec.xor_allOnes

/-- The octets of a difference of two words are the differences of their octets. -/
theorem headerW_xor (w d : Word) :
    headerW0 (w ^^^ d) = headerW0 w ^^^ headerW0 d ∧ headerW1 (w ^^^ d) = headerW1 w ^^^ headerW1 d ∧
      headerW2 (w ^^^ d) = headerW2 w ^^^ headerW2 d ∧ headerW3 (w ^^^ d) = headerW3 w ^^^ headerW3 d :=
  ⟨BitVec.extractLsb'_xor, BitVec.extractLsb'_xor, BitVec.extractLsb'_xor, BitVec.extractLsb'_xor⟩

/-- Two complementary octets are still complementary after changes exactly if they change alike. -/
theorem xor_eq_not_xor_iff {a b : Octet} (h : b = ~~~a) (x y : Octet) : b ^^^ y = ~~~(a ^^^ x) ↔ y = x := by
  rw [h, BitVec.not_xor_left, BitVec.xor_right_inj]

namespace Machine

/-! ### The header flags -/

/-- The header function in the spec's literals (41_framer R111). -/
theorem hdr_eq (op : Octet) : hdr op = 0x2B#8 ++ 0xD4#8 ++ op ++ ~~~op := by
  rw [hdr, not8_eq_not]
  rfl

/-- `FLAGS(W)` as conditions on the octets of W (R114). -/
theorem headerFlags_eq (w : Word) :
    headerFlags w =
      { hsent := decide (headerW0 w = 0x2B#8)
        hpcpl := decide (headerW1 w = ~~~headerW0 w)
        hccpl := decide (headerW3 w = ~~~headerW2 w)
        hopk := decide (headerW2 w ∈ [0x10#8, 0x13#8, 0x14#8, 0x15#8, 0x19#8, 0x1A#8, 0x40#8])
        hwf := decide (headerW1 w = ~~~headerW0 w ∧ headerW3 w = ~~~headerW2 w)
        hvalid := decide (headerW0 w = 0x2B#8 ∧ headerW1 w = ~~~headerW0 w ∧ headerW3 w = ~~~headerW2 w) } := by
  simp [headerFlags, sentinel, opset, not8_eq_not, beq_eq_decide, Bool.and_assoc]

/-- HVALID is the three framing checks together (R114). -/
theorem headerFlags_hvalid_iff (w : Word) :
    (headerFlags w).hvalid = true ↔
      headerW0 w = 0x2B#8 ∧ headerW1 w = ~~~headerW0 w ∧ headerW3 w = ~~~headerW2 w := by
  rw [headerFlags_eq, decide_eq_true_iff]

/-- A built header passes every framing check, and its HOPK is membership of its opcode in OPSET (R116). -/
theorem headerFlags_hdr (op : Octet) :
    headerFlags (hdr op) =
      ⟨true, true, true, decide (op ∈ [0x10#8, 0x13#8, 0x14#8, 0x15#8, 0x19#8, 0x1A#8, 0x40#8]), true, true⟩ := by
  obtain ⟨h0, h1, h2, h3⟩ := headerW_wordOfWire sentinel sentinelCpl op (not8 op)
  have hpreamble : sentinelCpl = ~~~sentinel := rfl
  rw [headerFlags_eq, hdr, h0, h1, h2, h3, not8_eq_not, hpreamble]
  simp [sentinel]

/-! ### A valid header with some bits changed -/

/-- With the bits of `d` flipped in a valid header, a complement check fails exactly if `d` changes its two octets
differently, and the preamble check exactly if `d` changes w0 (R114, R117). -/
theorem headerFlags_xor {w : Word} (h : (headerFlags w).hvalid = true) (d : Word) :
    (headerFlags (w ^^^ d)).hsent = decide (headerW0 d = 0) ∧
    (headerFlags (w ^^^ d)).hpcpl = decide (headerW1 d = headerW0 d) ∧
    (headerFlags (w ^^^ d)).hccpl = decide (headerW3 d = headerW2 d) := by
  obtain ⟨hsent, hpcpl, hccpl⟩ := (headerFlags_hvalid_iff w).1 h
  obtain ⟨h0, h1, h2, h3⟩ := headerW_xor w d
  have hw0 : headerW0 w ^^^ headerW0 d = 0x2B#8 ↔ headerW0 d = 0 := by
    rw [hsent, ← BitVec.xor_right_inj (x := headerW0 d) 0x2B#8]
    rfl
  rw [headerFlags_eq, h0, h1, h2, h3]
  exact ⟨decide_eq_decide.2 hw0, decide_eq_decide.2 (xor_eq_not_xor_iff hpcpl _ _),
    decide_eq_decide.2 (xor_eq_not_xor_iff hccpl _ _)⟩

/-- A single bit lies in one octet of the preamble, or in one of w2 and w3. -/
theorem headerW_singleBit {j : Nat} (hj : j < 32) :
    (16 ≤ j → headerW1 (1#32 <<< j) ≠ headerW0 (1#32 <<< j)) ∧
      (j < 16 → headerW3 (1#32 <<< j) ≠ headerW2 (1#32 <<< j)) := by
  revert j
  decide

/-- The same bit of w2 and w3: the preamble is left alone, and the two octets change alike. -/
theorem headerW_pairedBits {m : Nat} (hm : m < 8) :
    headerW0 (1#32 <<< m ^^^ 1#32 <<< (m + 8)) = 0 ∧ headerW1 (1#32 <<< m ^^^ 1#32 <<< (m + 8)) = 0 ∧
      headerW3 (1#32 <<< m ^^^ 1#32 <<< (m + 8)) = headerW2 (1#32 <<< m ^^^ 1#32 <<< (m + 8)) := by
  revert m
  decide

/-! ### The turns of a framer operation -/

/-- The flags in STATUS after a header was reported, as conditions on the octets of the header (10_state R35, R114). -/
theorem flags_iff_of_flagsOf {s : State} {w : Word} (h : flagsOf s = headerFlags w) :
    (s.hsent = true ↔ headerW0 w = 0x2B#8) ∧ (s.hpcpl = true ↔ headerW1 w = ~~~headerW0 w) ∧
    (s.hccpl = true ↔ headerW3 w = ~~~headerW2 w) ∧
    (s.hopk = true ↔ headerW2 w ∈ [0x10#8, 0x13#8, 0x14#8, 0x15#8, 0x19#8, 0x1A#8, 0x40#8]) ∧
    (s.hwf = true ↔ headerW1 w = ~~~headerW0 w ∧ headerW3 w = ~~~headerW2 w) ∧
    (s.hvalid = true ↔ headerW0 w = 0x2B#8 ∧ headerW1 w = ~~~headerW0 w ∧ headerW3 w = ~~~headerW2 w) := by
  obtain ⟨hsent, hpcpl, hccpl, hopk, hwf, hvalid⟩ := HeaderFlags.mk.inj (h.trans (headerFlags_eq w))
  rw [hsent, hpcpl, hccpl, hopk, hwf, hvalid]
  simp only [decide_eq_true_iff, and_self]

/-- BUILD_HDR and CHECK_HDR pass every turn of a stream: neither port is active (R112, R115; 10_state R41, R42). -/
theorem Running.exec_stream_pass {i : Instr} {j : Nat} {s : State} (h : Running i j s)
    (hi : i ∈ [.buildHdr, .checkHdr]) (hhost : s.turn ≠ .host) (hblock : s.turn ≠ .block) : exec i s = .next s := by
  have hop : decodeOp s.op = .ok i ∧ isTxOp s.op = false ∧ isRxOp s.op = false := by
    rw [h.op]
    fin_cases hi <;> decide
  obtain ⟨hd, htx, hrx⟩ := hop
  rw [exec_running hd h.seq hhost, runningStep_pass hblock (by simp [txValid, htx]) (by simp [rxReady, hrx]) h.seq]

/-- BUILD_HDR and SEND_HDR complete with the header of OPND[7:0] in RESULT and its flags in STATUS (R112, R113). -/
theorem Running.exec_deliversHeader {i : Instr} {s : State} (h : Running i (octets i) s)
    (hi : i ∈ [.buildHdr, .sendHdr]) (ht : s.turn = .block) :
    ∃ t, exec i s = .next t ∧
      t = { s with result := t.result, status := t.status, seq := .idle } ∧
      t.result = 0x2B#8 ++ 0xD4#8 ++ s.opnd.extractLsb' 0 8 ++ ~~~(s.opnd.extractLsb' 0 8) ∧
      t.hsent = true ∧ t.hpcpl = true ∧ t.hccpl = true ∧ t.hwf = true ∧ t.hvalid = true ∧
      (t.hopk = true ↔ s.opnd.extractLsb' 0 8 ∈ [0x10#8, 0x13#8, 0x14#8, 0x15#8, 0x19#8, 0x1A#8, 0x40#8]) ∧
      t.doneBit = true ∧ t.busy = false ∧
      (∀ j, j ≠ 0 → j ≠ 1 → ¬ (8 ≤ j ∧ j ≤ 13) → t.status.getLsbD j = s.status.getLsbD j) := by
  have hd : decodeCommand (encode i) = .ok i := by fin_cases hi <;> rfl
  have hresult : (completion i s).result = hdr (s.opnd.extractLsb' 0 8) := by fin_cases hi <;> rfl
  have hflags : flagsOf (completion i s) = headerFlags (hdr (s.opnd.extractLsb' 0 8)) :=
    flagsOf_completed (completion_status_reports (.inl ⟨hi, rfl⟩))
  obtain ⟨hsent, hpcpl, hccpl, hopk, hwf, hvalid⟩ := HeaderFlags.mk.inj (hflags.trans (headerFlags_hdr _))
  refine ⟨_, h.exec_completion hd ht, completion_frame (h.decodeOp_eq hd) s, hresult.trans (hdr_eq _), hsent, hpcpl,
    hccpl, hwf, hvalid, ?_, completion_status (h.decodeOp_eq hd) s⟩
  rw [hopk, decide_eq_true_iff]

end Machine

end Sys2Proof

/-! PROOFS. The statements of the family 41_framer. -/

namespace Sys2Proof.Proofs

open Sys2Proof Sys2Proof.Machine

/-- Settles O45: a flipped bit changes one octet of one complementary pair, and the same bit flipped in w2 and w3
changes both of them alike. -/
theorem singleBitFlipIsDetected : Obligations.SingleBitFlipIsDetected := by
  constructor
  · intro w j hj hv
    obtain ⟨-, hpcpl, hccpl⟩ := headerFlags_xor hv (1#32 <<< j)
    obtain ⟨hhigh, hlow⟩ := headerW_singleBit hj
    have hp (h : 16 ≤ j) : (headerFlags (w ^^^ 1#32 <<< j)).hpcpl = false := hpcpl.trans (decide_eq_false (hhigh h))
    have hc (h : j < 16) : (headerFlags (w ^^^ 1#32 <<< j)).hccpl = false := hccpl.trans (decide_eq_false (hlow h))
    have hwf : (headerFlags (w ^^^ 1#32 <<< j)).hwf = false := by
      rw [headerFlags_hwf]
      by_cases h : 16 ≤ j
      · rw [hp h, Bool.false_and]
      · rw [hc (Nat.lt_of_not_le h), Bool.and_false]
    have hvalid : (headerFlags (w ^^^ 1#32 <<< j)).hvalid = false := by
      rw [headerFlags_hvalid, hwf, Bool.and_false]
    exact ⟨hwf, hvalid, hp, hc⟩
  · intro w m hm hv
    obtain ⟨hsent, hpcpl, hccpl⟩ := headerFlags_xor hv (1#32 <<< m ^^^ 1#32 <<< (m + 8))
    obtain ⟨h0, h1, h32⟩ := headerW_pairedBits hm
    dsimp only
    rw [BitVec.xor_assoc, headerFlags_hvalid, headerFlags_hwf, hsent, hpcpl, hccpl, h0, h1, h32, headerFlags_eq]
    exact ⟨decide_eq_true rfl, by simp, decide_eq_false_iff_not⟩

/-- Settles O44: the octets of a built header are the preamble, its complement, the opcode and its complement. -/
theorem builtHeadersPassTheirCheck : Obligations.BuiltHeadersPassTheirCheck := headerFlags_hdr

/-- Settles O23: BUILD_HDR accepts its command, passes the streams' turns, and completes with the header. -/
theorem buildHdrComputesTheHeader : Obligations.BuildHdrComputesTheHeader := by
  intro s
  refine ⟨rfl, rfl, fun ht hb => exec_accept (c := 8) rfl ht hb, fun he hop hn hk => ?_⟩
  have running : Running .buildHdr 0 s := ⟨he, hop, hn, hk⟩
  refine ⟨fun ht => running.exec_deliversHeader (by decide) ht, fun ready err ht => ?_, fun valid err b ht => ?_⟩
  · exact running.exec_stream_pass (by decide) (by simp [ht]) (by simp [ht])
  · exact running.exec_stream_pass (by decide) (by simp [ht]) (by simp [ht])

/-- Settles O24: SEND_HDR accepts its command, puts the four octets of the header, and completes with it or aborts. -/
theorem sendHdrSendsTheHeader : Obligations.SendHdrSendsTheHeader := by
  intro s
  refine ⟨rfl, rfl, fun ht hb => exec_accept (c := 9) rfl ht hb, fun he hop hn => ?_⟩
  have running {j : Nat} (hk : s.k = BitVec.ofNat 3 j) : Running .sendHdr j s := ⟨he, hop, hn, hk⟩
  have hword : txWord s = 0x2B#8 ++ 0xD4#8 ++ s.opnd.extractLsb' 0 8 ++ ~~~(s.opnd.extractLsb' 0 8) :=
    (if_pos hop).trans (hdr_eq _)
  refine ⟨fun j hj hk => ⟨fun ht => ?_, fun ht => ?_, fun ready ht => ?_⟩, fun hk ht => ?_⟩
  · rw [show 24 - 8 * j = 8 * (4 - 1 - j) by omega, ← hword]
    exact (running hk).exec_sink_ready (by decide) hj ht
  · exact (running hk).exec_sink_pause (by decide) hj ht
  · exact (running hk).exec_sink_error (by decide) hj ht
  · exact (running (j := 4) hk).exec_deliversHeader (by decide) ht

/-- Settles O25: CHECK_HDR accepts its command, passes the streams' turns, and completes with the flags of OPND. -/
theorem checkHdrReportsTheFlags : Obligations.CheckHdrReportsTheFlags := by
  intro s
  refine ⟨rfl, rfl, fun ht hb => exec_accept (c := 10) rfl ht hb, fun he hop hn hk => ?_⟩
  have running : Running .checkHdr 0 s := ⟨he, hop, hn, hk⟩
  refine ⟨fun ht => ?_, fun ready err ht => ?_, fun valid err b ht => ?_⟩
  · have hflags : flagsOf (completion .checkHdr s) = headerFlags s.opnd :=
      flagsOf_completed (completion_status_reports (.inr ⟨rfl, rfl⟩))
    exact ⟨_, running.exec_completion rfl ht, rfl, flags_iff_of_flagsOf hflags, completion_status (c := 10) rfl s⟩
  · exact running.exec_stream_pass (by decide) (by simp [ht]) (by simp [ht])
  · exact running.exec_stream_pass (by decide) (by simp [ht]) (by simp [ht])

end Sys2Proof.Proofs

/-! SUPPORT for the statements of the family 42_wire_commands: a word by its high octet and the octets below it, and
what the verdicts on the reply words of Status and ExtendedStatus say. -/

namespace Sys2Proof.Machine

/-! ### The octets of a reply word -/

/-- Masking with 0xFF00 keeps the high octet and clears the low one. -/
theorem and_highOctetMask (x : BitVec 16) : x &&& 0xFF00#16 = x.extractLsb' 8 8 ++ 0#8 :=
  calc
    x &&& 0xFF00#16 = (x.extractLsb' 8 8 ++ x.extractLsb' 0 8) &&& (BitVec.allOnes 8 ++ 0#8) :=
      congrArg (· &&& 0xFF00#16) (BitVec.extractLsb'_append_extractLsb' (w := 8) (len := 8)).symm
    _ = x.extractLsb' 8 8 ++ 0#8 := by rw [BitVec.and_append, BitVec.and_allOnes, BitVec.and_zero]

/-- Two words with the same low octet are equal exactly if their high octets are. -/
theorem append_octet_inj {a b : Octet} (low : Octet) : a ++ low = b ++ low ↔ a = b := by
  refine ⟨fun h => ?_, fun h => h ▸ rfl⟩
  have hhigh := congrArg (BitVec.extractLsb' 8 8) h
  rwa [BitVec.extractLsb'_append_eq_left, BitVec.extractLsb'_append_eq_left] at hhigh

/-- The octets of a word above its low octet do not change when the low octet is replaced. -/
theorem extractLsb'_replace_lowOctet (e : Word) (b : Octet) {start : Nat} (hlow : 8 ≤ start) (hhigh : start + 8 ≤ 32) :
    (e.extractLsb' 8 24 ++ b).extractLsb' start 8 = e.extractLsb' start 8 := by
  rw [BitVec.extractLsb'_append_eq_of_le hlow]
  ext j hj
  simp only [BitVec.getElem_extractLsb', BitVec.getLsbD_extractLsb', show start - 8 + j < 24 by omega, decide_true,
    Bool.true_and, show 8 + (start - 8 + j) = start + j by omega]

/-! ### The verdicts -/

/-- The check of a Status word is on its high octet (42_wire_commands R150). -/
theorem statusTrusted_iff {w : BitVec 16} : statusTrusted w = true ↔ w.extractLsb' 8 8 = 0xA5#8 := beq_iff_eq

/-- The check of an extended status is on its two high octets (42_wire_commands R152). -/
theorem extendedTrusted_iff {e : Word} :
    extendedTrusted e = true ↔ e.extractLsb' 24 8 = 0x5A#8 ∧ e.extractLsb' 16 8 = 0x05#8 := by
  rw [extendedTrusted, Bool.and_eq_true, beq_iff_eq, beq_iff_eq]

/-- The device octet is looked up in a table of two rows, with an answer for every other octet (42_wire_commands
R152). -/
theorem extendedDevice_cases (e : Word) :
    (e.extractLsb' 8 8 = 0x18#8 ∧ extendedDevice e = .pro) ∨ (e.extractLsb' 8 8 = 0x25#8 ∧ extendedDevice e = .core) ∨
      (e.extractLsb' 8 8 ≠ 0x18#8 ∧ e.extractLsb' 8 8 ≠ 0x25#8 ∧ extendedDevice e = .unknown) := by
  unfold extendedDevice
  split
  case isTrue hpro => exact .inl ⟨hpro, rfl⟩
  case isFalse hpro =>
    split
    case isTrue hcore => exact .inr (.inl ⟨hcore, rfl⟩)
    case isFalse hcore => exact .inr (.inr ⟨hpro, hcore, rfl⟩)

/-- Each device is named by its own octets only: the cases of the look-up exclude each other. -/
theorem extendedDevice_iff (e : Word) :
    (extendedDevice e = .pro ↔ e.extractLsb' 8 8 = 0x18#8) ∧ (extendedDevice e = .core ↔ e.extractLsb' 8 8 = 0x25#8) ∧
      (extendedDevice e = .unknown ↔ e.extractLsb' 8 8 ≠ 0x18#8 ∧ e.extractLsb' 8 8 ≠ 0x25#8) := by
  obtain ⟨hpro, hdevice⟩ | ⟨hcore, hdevice⟩ | ⟨hpro, hcore, hdevice⟩ := extendedDevice_cases e
  · simp [hpro, hdevice]
  · simp [hcore, hdevice]
  · simp [hpro, hcore, hdevice]

/-- The trust of an extended status does not depend on its low octet. -/
theorem extendedTrusted_replace_lowOctet (e : Word) (b : Octet) :
    extendedTrusted (e.extractLsb' 8 24 ++ b) = extendedTrusted e := by
  rw [extendedTrusted, extractLsb'_replace_lowOctet e b (by decide) (by decide),
    extractLsb'_replace_lowOctet e b (by decide) (by decide), extendedTrusted]

/-- The device of an extended status does not depend on its low octet. -/
theorem extendedDevice_replace_lowOctet (e : Word) (b : Octet) :
    extendedDevice (e.extractLsb' 8 24 ++ b) = extendedDevice e := by
  rw [extendedDevice, extractLsb'_replace_lowOctet e b (by decide) (by decide), extendedDevice]

end Sys2Proof.Machine

/-! PROOFS. The statements of the family 42_wire_commands. -/

namespace Sys2Proof.Proofs

open Sys2Proof Sys2Proof.Machine

/-- Settles O59: what the mask leaves of a Status word is its high octet, which is the octet checked. -/
theorem statusTrustIsTheHighOctet : Obligations.StatusTrustIsTheHighOctet := by
  intro w
  have hliteral : 0xA500#16 = 0xA5#8 ++ 0#8 := by decide
  rw [statusTrusted_iff, and_highOctetMask, hliteral, append_octet_inj]

/-- Settles O60: trust is the check of the two high octets, the device is the row of the next octet, and no check reads
the low octet. -/
theorem extendedStatusVerdict : Obligations.ExtendedStatusVerdict := by
  intro e
  obtain ⟨hpro, hcore, hunknown⟩ := extendedDevice_iff e
  exact ⟨extendedTrusted_iff, hpro, hcore, hunknown,
    fun b => ⟨extendedTrusted_replace_lowOctet e b, extendedDevice_replace_lowOctet e b⟩⟩

end Sys2Proof.Proofs

/-! SUPPORT for the statements of the family 70_reset_and_hazards: the bits of STATUS after reset. -/

namespace Sys2Proof.Machine

/-- Reset leaves no bit of STATUS set, so no outcome, no BUSY and no sticky bit (R40, R181). -/
theorem resetBlock_status_getLsbD (s : State) (j : Nat) : (resetBlock s).status.getLsbD j = false := by
  rw [resetBlock_status]
  exact BitVec.getLsbD_zero

end Sys2Proof.Machine

/-! PROOFS. The statements of the family 70_reset_and_hazards. -/

namespace Sys2Proof.Proofs

open Sys2Proof Sys2Proof.Machine

/-- Settles O3: a reset step clears every bit of STATUS and is none of the turns that move an octet. That an operation
was running is not needed: reset leaves the same block whatever the state was. -/
theorem resetEndsAnOperationWithoutOutcome : Obligations.ResetEndsAnOperationWithoutOutcome := by
  intro s _ hn
  have hclear (j : Nat) : (resetBlock (takeTurn .reset s)).status.getLsbD j = false := resetBlock_status_getLsbD _ j
  refine ⟨_, step_reset hn, ?seq, hclear 0, hclear 1, hclear 2, hclear 3, hclear 16, ?wire, ?taken⟩
  case seq => rw [resetBlock_seq]
  case wire => rw [resetBlock_txWire, takeTurn_txWire]
  case taken => rw [resetBlock_rxTaken, takeTurn_rxTaken]

end Sys2Proof.Proofs

/-! SUPPORT for the encoding statement of the family other: when a header decodes, and that decoding a word is the
inverse of encoding an instruction. -/

namespace Sys2Proof

/-- The opcodes of the seven commands are exactly those with a command (30_encoding R76). -/
theorem exists_decodeOpcode_iff (op : Octet) :
    (∃ i, decodeOpcode op = .ok i) ↔ op ∈ [0x10#8, 0x13#8, 0x14#8, 0x15#8, 0x19#8, 0x1A#8, 0x40#8] := by
  constructor
  · rintro ⟨i, h⟩
    revert h
    unfold decodeOpcode
    repeat' split
    all_goals simp [*]
  · intro hop
    fin_cases hop <;> exact ⟨_, rfl⟩

/-- A word is a command's header exactly if its octets are the preamble, its complement, the command's opcode and the
opcode's complement (R75, R76). -/
theorem decodeHeader_ok_iff (w : Word) (i : Instr) :
    decodeHeader w = .ok i ↔
      headerW0 w = 0x2B#8 ∧ headerW1 w = 0xD4#8 ∧ headerW3 w = ~~~headerW2 w ∧ decodeOpcode (headerW2 w) = .ok i := by
  unfold decodeHeader
  rw [not8_eq_not]
  repeat' split
  all_goals simp_all

/-- The header of an opcode stands for the opcode's command. -/
theorem decodeHeader_encodeHeader (op : Octet) : decodeHeader (encodeHeader op) = decodeOpcode op := by
  simp [decodeHeader, encodeHeader]

/-- Each instruction's word decodes to the instruction. -/
theorem decode_encode (i : Instr) : decode (encode i) = .ok i := by
  cases i <;> rfl

/-- No two instructions have the same word. -/
theorem encode_injective {i j : Instr} (h : encode i = encode j) : i = j :=
  Except.ok.inj ((decode_encode i).symm.trans ((congrArg decode h).trans (decode_encode j)))

/-- A legal command word is its operation's encoding, row by row of the operation map (R72). -/
theorem eq_encode_of_decodeCommand {v : Word} {i : Instr} (h : decodeCommand v = .ok i) : v = encode i := by
  have hrows : ∀ row ∈ operationMap, row.2.1 = encode row.1 := by decide
  exact hrows _ (decodeCommand_mem_operationMap h)

/-- A header that decodes is its command's encoding (R75, R76). -/
theorem eq_encode_of_decodeHeader {w : Word} {i : Instr} (h : decodeHeader w = .ok i) : w = encode i := by
  obtain ⟨h0, h1, h3, hop⟩ := (decodeHeader_ok_iff w i).1 h
  rw [decodeOpcode_encode hop, encodeHeader, not8_eq_not, ← h0, ← h1, ← h3]
  exact word_eq_octets w

/-- What decodes does so as a command word or as a header. -/
theorem decode_ok_cases {w : Word} {i : Instr} (h : decode w = .ok i) :
    decodeCommand w = .ok i ∨ decodeHeader w = .ok i := by
  unfold decode at h
  split at h
  · exact .inl (‹decodeCommand w = _›.trans h)
  · split at h
    · exact .inr (‹decodeHeader w = _›.trans h)
    · cases h

/-- Decoding is the inverse of encoding (R74). -/
theorem decode_ok_iff (w : Word) (i : Instr) : decode w = .ok i ↔ w = encode i := by
  constructor
  · intro h
    exact (decode_ok_cases h).elim eq_encode_of_decodeCommand eq_encode_of_decodeHeader
  · rintro rfl
    exact decode_encode i

/-- An opcode is command `i`'s exactly if it is one of the seven and `i`'s word is its header (R76). -/
theorem decodeOpcode_ok_iff (op : Octet) (i : Instr) :
    decodeOpcode op = .ok i ↔
      op ∈ [0x10#8, 0x13#8, 0x14#8, 0x15#8, 0x19#8, 0x1A#8, 0x40#8] ∧ encode i = encodeHeader op := by
  constructor
  · intro h
    exact ⟨(exists_decodeOpcode_iff op).1 ⟨i, h⟩, decodeOpcode_encode h⟩
  · rintro ⟨hop, he⟩
    obtain ⟨j, hj⟩ := (exists_decodeOpcode_iff op).2 hop
    rwa [encode_injective (he.trans (decodeOpcode_encode hj).symm)]

/-- The wire decoder reads the header at the front and leaves the rest (R75). -/
theorem decodeWire_ok_iff (b0 b1 b2 b3 : Octet) (rest : List Octet) (i : Instr) :
    decodeWire (b0 :: b1 :: b2 :: b3 :: rest) = .ok (i, rest) ↔ decodeHeader (wordOfWire b0 b1 b2 b3) = .ok i := by
  change (decodeHeader (wordOfWire b0 b1 b2 b3)).map (·, rest) = .ok (i, rest) ↔ _
  cases decodeHeader (wordOfWire b0 b1 b2 b3) <;> simp [Except.map]

end Sys2Proof

/-! PROOFS. The encoding statement. -/

namespace Sys2Proof.Proofs

open Sys2Proof

/-- Settles O13: a word that decodes is its instruction's by its fields or by its octets, and no two instructions have
the same word; on the wire the four octets decide, since the word of an opcode's header is its command's. -/
theorem decodeIsTheInverseOfEncode : Obligations.DecodeIsTheInverseOfEncode := by
  refine ⟨decode_ok_iff, fun b0 b1 b2 b3 rest i => ?_⟩
  obtain ⟨h0, h1, h2, h3⟩ := headerW_wordOfWire b0 b1 b2 b3
  rw [decodeWire_ok_iff]
  constructor
  · intro h
    refine ⟨(eq_encode_of_decodeHeader h).symm, b2, ?_⟩
    rw [decodeHeader_ok_iff, h0, h1, h2, h3, decodeOpcode_ok_iff] at h
    obtain ⟨hb0, hb1, hb3, hmem, -⟩ := h
    exact ⟨hmem, hb0, hb1, rfl, hb3⟩
  · rintro ⟨he, op, hmem, rfl, rfl, rfl, rfl⟩
    rw [decodeHeader_ok_iff, h0, h1, h2, h3, decodeOpcode_ok_iff, encodeHeader, not8_eq_not]
    exact ⟨rfl, rfl, rfl, hmem, he⟩

end Sys2Proof.Proofs

/-! SUPPORT for the invariant and the outcome bits: what BUSY, DONE, TERR and ILL are after each kind of step, and what
no step but reset does to the other parts of STATUS and to the sequencer. -/

namespace Sys2Proof.Machine

open Sys2Proof.Safety

/-! ### BUSY and the outcome bits -/

/-- What STATUS says of the last command (10_state R32, R34). -/
structure Report where
  busy : Bool
  done : Bool
  terr : Bool
  ill : Bool

/-- BUSY, DONE, TERR and ILL of a value of STATUS (R31). -/
def reportIn (st : Word) : Report := ⟨st.getLsbD 0, st.getLsbD 1, st.getLsbD 2, st.getLsbD 3⟩

/-- The report of a state is its four bits. -/
theorem report_eq_iff {s : State} {b d t i : Bool} :
    reportIn s.status = ⟨b, d, t, i⟩ ↔ s.busy = b ∧ s.doneBit = d ∧ s.terr = t ∧ s.ill = i :=
  Iff.of_eq (Report.mk.injEq ..)

/-- Whether a command has been started shows in the report. -/
theorem started_iff {s : State} {b d t i : Bool} (h : reportIn s.status = ⟨b, d, t, i⟩) :
    Started s ↔ b = true ∨ d.toNat + t.toNat + i.toNat = 1 := by
  obtain ⟨rfl, rfl, rfl, rfl⟩ := report_eq_iff.1 h
  rfl

/-- While an operation runs, BUSY is 1 and no outcome is reported (R32, R34). -/
theorem report_running {s : State} (hinv : Inv s) (he : s.seq = .exec) :
    reportIn s.status = ⟨true, false, false, false⟩ := by
  have hbusy := hinv.busy_iff_exec.2 he
  have hnone : s.doneBit = false ∧ s.terr = false ∧ s.ill = false := by
    simpa [outcomeCount, and_assoc] using hinv.no_outcome_while_busy hbusy
  exact report_eq_iff.2 ⟨hbusy, hnone⟩

/-- An operation that can abort is running. -/
theorem seq_of_aborts {s : State} (ha : Aborts s) : s.seq = .exec := by
  obtain ⟨hv, -⟩ | ⟨hr, -⟩ := ha
  · exact (txValid_iff.1 hv).1
  · exact (rxReady_iff.1 hr).1

/-- A completion reports DONE alone (R33). -/
theorem report_complete {s t : State} (hinv : Inv s) (hc : Completes s) (h : step s = .next t) :
    reportIn t.status = ⟨false, true, false, false⟩ := by
  obtain ⟨i, hi, -⟩ := hinv.running_op hc.1
  cases h.symm.trans (step_completion hc hi)
  obtain ⟨hdone, hbusy, hrest⟩ := completion_status hi (takeTurn .block s)
  obtain ⟨-, -, hterr, hill⟩ := report_eq_iff.1 (report_running hinv hc.1)
  exact report_eq_iff.2 ⟨hbusy, hdone, (hrest 2 (by decide) (by decide) (by decide)).trans hterr,
    (hrest 3 (by decide) (by decide) (by decide)).trans hill⟩

/-- An abort reports TERR alone (60_exceptions R163). -/
theorem report_abort {s t : State} (hinv : Inv s) (ha : Aborts s) (h : step s = .next t) :
    reportIn t.status = ⟨false, false, true, false⟩ := by
  obtain ⟨turn, -, hstep⟩ := step_abort ha
  cases h.symm.trans hstep
  obtain ⟨-, hdone, -, hill⟩ := report_eq_iff.1 (report_running hinv (seq_of_aborts ha))
  simpa [reportIn, State.doneBit, State.ill] using And.intro hdone hill

/-- A legal word written to an idle block leaves BUSY and no outcome (R29). -/
theorem report_accept {s t : State} {v : Word} {i : Instr} (hw : HostWrites 0x00 v s) (hb : s.busy = false)
    (hd : decodeCommand v = .ok i) (h : step s = .next t) : reportIn t.status = ⟨true, false, false, false⟩ := by
  obtain ⟨rest, hw⟩ := hostWrites_iff.1 hw
  cases h.symm.trans (step_accept hw hb hd)
  simp [reportIn]

/-- An illegal word written to an idle block leaves ILL alone (R29, 60_exceptions R167). -/
theorem report_illegal {s t : State} {v : Word} (hw : HostWrites 0x00 v s) (hb : s.busy = false)
    (hv : ∀ i, decodeCommand v ≠ .ok i) (h : step s = .next t) :
    reportIn t.status = ⟨false, false, false, true⟩ := by
  obtain ⟨rest, hw⟩ := hostWrites_iff.1 hw
  cases h.symm.trans (step_illegal hw hb hv)
  simpa [reportIn, State.busy] using hb

/-- A word written to an idle block is taken as a command or reported as illegal (R29). -/
theorem report_command {s t : State} {v : Word} (hw : HostWrites 0x00 v s) (hb : s.busy = false)
    (h : step s = .next t) :
    ((∃ i, decodeCommand v = .ok i) ∧ reportIn t.status = ⟨true, false, false, false⟩) ∨
      ((∀ i, decodeCommand v ≠ .ok i) ∧ reportIn t.status = ⟨false, false, false, true⟩) := by
  by_cases hd : ∃ i, decodeCommand v = .ok i
  · obtain ⟨i, hi⟩ := hd
    exact .inl ⟨⟨i, hi⟩, report_accept hw hb hi h⟩
  · have hv : ∀ i, decodeCommand v ≠ .ok i := fun i hi => hd ⟨i, hi⟩
    exact .inr ⟨hv, report_illegal hw hb hv h⟩

/-- A block after reset reports nothing (70_reset R180). -/
theorem report_resetBlock (s : State) : reportIn (resetBlock s).status = ⟨false, false, false, false⟩ := by
  simp [reportIn]

/-- A reset step reports nothing. -/
theorem report_reset {s t : State} (hr : nextTurn s = some .reset) (h : step s = .next t) :
    reportIn t.status = ⟨false, false, false, false⟩ := by
  cases h.symm.trans (step_reset hr)
  exact report_resetBlock _

/-- A step that is no completion, abort, reset or command write to an idle block leaves the report as it was (R34). -/
theorem StatusChange.report_kept {s : State} {st : Word} (c : StatusChange s st) (hc : ¬ Completes s)
    (ha : ¬ Aborts s) (hr : nextTurn s ≠ some .reset) (hw : ¬ (s.busy = false ∧ ∃ v, HostWrites 0x00 v s)) :
    reportIn st = reportIn s.status := by
  cases c with
  | same => rfl
  | sticky v => simp [reportIn]
  | reject v => simp [reportIn]
  | illegal v host idle => exact absurd ⟨idle, v, host⟩ hw
  | accept v i host idle => exact absurd ⟨idle, v, host⟩ hw
  | abort waits => exact absurd waits ha
  | complete due => exact absurd due hc
  | report i w due => exact absurd due hc
  | reset turn => exact absurd turn hr

/-- Off reset, a step leaves a command started exactly if one was before or an idle block gets a command write (R34). -/
theorem started_step_iff {s t : State} (hinv : Inv s) (h : step s = .next t) (hr : nextTurn s ≠ some .reset) :
    Started t ↔ Started s ∨ (s.busy = false ∧ ∃ v, HostWrites 0x00 v s) := by
  have started_of_exec (he : s.seq = .exec) : Started s := .inl (hinv.busy_iff_exec.2 he)
  by_cases hc : Completes s
  · simp [started_iff (report_complete hinv hc h), started_of_exec hc.1]
  by_cases ha : Aborts s
  · simp [started_iff (report_abort hinv ha h), started_of_exec (seq_of_aborts ha)]
  by_cases hw : s.busy = false ∧ ∃ v, HostWrites 0x00 v s
  · have hstarted : Started t := by
      obtain ⟨hb, v, hw⟩ := hw
      obtain ⟨-, hreport⟩ | ⟨-, hreport⟩ := report_command hw hb h <;> simp [started_iff hreport]
    exact iff_of_true hstarted (.inr hw)
  · rw [started_iff ((step_status h).report_kept hc ha hr hw), or_iff_left hw]
    rfl

/-! ### The invariant -/

/-- The part of the invariant that speaks of BUSY and the outcome bits (R34). -/
def Report.Ok (r : Report) : Prop :=
  r.done.toNat + r.terr.toNat + r.ill.toNat ≤ 1 ∧ (r.busy = true → r.done.toNat + r.terr.toNat + r.ill.toNat = 0)

/-- Every step from an invariant state leaves at most one outcome, and none while BUSY (R34). -/
theorem report_ok {s t : State} (hinv : Inv s) (h : step s = .next t) : (reportIn t.status).Ok := by
  by_cases hc : Completes s
  · rw [report_complete hinv hc h]
    simp [Report.Ok]
  by_cases ha : Aborts s
  · rw [report_abort hinv ha h]
    simp [Report.Ok]
  by_cases hr : nextTurn s = some .reset
  · rw [report_reset hr h]
    simp [Report.Ok]
  by_cases hw : s.busy = false ∧ ∃ v, HostWrites 0x00 v s
  · obtain ⟨hb, v, hw⟩ := hw
    obtain ⟨-, hreport⟩ | ⟨-, hreport⟩ := report_command hw hb h <;> simp [hreport, Report.Ok]
  · rw [(step_status h).report_kept hc ha hr hw]
    exact ⟨hinv.one_outcome, hinv.no_outcome_while_busy⟩

/-- The mask of the reserved bits of STATUS selects none of the bits a step writes (R31). -/
theorem reservedMask_bits {j : Nat} (hj : (0xFFFCC0F0#32).getLsbD j = true) :
    4 ≤ j ∧ ¬ (8 ≤ j ∧ j ≤ 13) ∧ j ≠ 16 ∧ j ≠ 17 := by
  have hlt : j < 32 := by
    by_contra hge
    rw [BitVec.getLsbD_of_ge _ _ (by omega)] at hj
    cases hj
  revert hj
  revert j
  decide

/-- Nothing but reset touches a bit of STATUS that is not one of the twelve fields (R31). -/
theorem StatusChange.reserved_kept {s : State} {st : Word} (c : StatusChange s st) {j : Nat} (h4 : 4 ≤ j)
    (hflag : ¬ (8 ≤ j ∧ j ≤ 13)) (h16 : j ≠ 16) (h17 : j ≠ 17) :
    st.getLsbD j = s.status.getLsbD j ∨ st.getLsbD j = false := by
  have h0 : j ≠ 0 := by omega
  have h1 : j ≠ 1 := by omega
  have h2 : j ≠ 2 := by omega
  have h3 : j ≠ 3 := by omega
  cases c with
  | same => exact .inl rfl
  | sticky v => exact .inl (by simp [h16, h17])
  | reject => exact .inl (by simp [h17])
  | illegal => exact .inl (by simp [h1, h2, h3])
  | accept => exact .inl (by simp [h0, h1, h2, h3])
  | abort => exact .inl (by simp [h0, h2, h16])
  | complete => exact .inl (by simp [h0, h1])
  | report i w =>
    refine .inl ?_
    rw [getLsbD_completedStatus, if_neg h0, if_neg h1, getLsbD_setFlagsFrom]
    repeat rw [if_neg (by omega)]
  | reset => exact .inr BitVec.getLsbD_zero

/-- The reserved bits stay 0 (R31). -/
theorem StatusChange.reserved_zero {s : State} {st : Word} (c : StatusChange s st)
    (hs : s.status &&& 0xFFFCC0F0#32 = 0#32) : st &&& 0xFFFCC0F0#32 = 0#32 := by
  apply BitVec.eq_of_getLsbD_eq
  intro j _
  rw [BitVec.getLsbD_and, BitVec.getLsbD_zero]
  cases hmask : (0xFFFCC0F0#32).getLsbD j with
  | false => exact Bool.and_false _
  | true =>
    have hbit : s.status.getLsbD j = false := by
      have hj := congrArg (BitVec.getLsbD · j) hs
      simpa only [BitVec.getLsbD_and, hmask, Bool.and_true, BitVec.getLsbD_zero] using hj
    obtain ⟨h4, hflag, h16, h17⟩ := reservedMask_bits hmask
    rw [Bool.and_true]
    obtain hkept | hclear := c.reserved_kept h4 hflag h16 h17
    · exact hkept.trans hbit
    · exact hclear

/-- The agreement of the header flags among each other (41_framer R114). -/
def HeaderFlags.Agree (f : HeaderFlags) : Prop := f.hwf = (f.hpcpl && f.hccpl) ∧ f.hvalid = (f.hsent && f.hwf)

/-- After reset all six are 0, so they agree. -/
theorem flagsOf_resetBlock_agree (s : State) : (flagsOf (resetBlock s)).Agree := by
  simp [HeaderFlags.Agree, flagsOf, State.hsent, State.hpcpl, State.hccpl, State.hwf, State.hvalid]

/-- The flags of any header word agree. -/
theorem headerFlags_agree (w : Word) : (headerFlags w).Agree := ⟨headerFlags_hwf w, headerFlags_hvalid w⟩

/-- A step leaves the header flags, or replaces all six by those of one word, or is a reset (R35). -/
theorem flagsOf_step {s t : State} (h : step s = .next t) :
    flagsOf t = flagsOf s ∨ (∃ w, flagsOf t = headerFlags w) ∨ nextTurn s = some .reset := by
  by_cases hflags : ∃ j, 8 ≤ j ∧ j ≤ 13 ∧ t.status.getLsbD j ≠ s.status.getLsbD j
  · obtain ⟨j, h8, h13, hne⟩ := hflags
    obtain hr | ⟨-, i, w, -, -, hst⟩ := (step_status h).of_headerFlag_ne h8 h13 hne
    · exact .inr (.inr hr)
    · exact .inr (.inl ⟨w, flagsOf_completed hst⟩)
  · have hsame (j : Nat) (h8 : 8 ≤ j) (h13 : j ≤ 13) : t.status.getLsbD j = s.status.getLsbD j := by
      by_contra hne
      exact hflags ⟨j, h8, h13, hne⟩
    refine .inl (HeaderFlags.mk.injEq .. ▸ ⟨hsame 8 ?_ ?_, hsame 9 ?_ ?_, hsame 10 ?_ ?_, hsame 11 ?_ ?_,
      hsame 12 ?_ ?_, hsame 13 ?_ ?_⟩) <;> decide

/-- The header flags agree after every step from a state in which they do. -/
theorem flagsOf_step_agree {s t : State} (hs : (flagsOf s).Agree) (h : step s = .next t) : (flagsOf t).Agree := by
  obtain hsame | ⟨w, hw⟩ | hr := flagsOf_step h
  · rwa [hsame]
  · rw [hw]
    exact headerFlags_agree w
  · cases h.symm.trans (step_reset hr)
    exact flagsOf_resetBlock_agree _

/-- What the invariant says of the sequencer's registers (10_state R20, R29, R45). -/
structure SequencerOk (s : State) : Prop where
  running_op : s.seq = .exec → ∃ i, decodeOp s.op = .ok i ∧ s.n.toNat = octets i
  k_le_n : s.k.toNat ≤ s.n.toNat
  n_le_four : s.n.toNat ≤ 4

/-- Only these five registers matter. -/
theorem SequencerOk.congr {s t : State} (h : SequencerOk s) (hseq : t.seq = s.seq ∨ t.seq = .idle) (hop : t.op = s.op)
    (hn : t.n = s.n) (hk : t.k = s.k) : SequencerOk t where
  running_op he := by
    obtain hseq | hidle := hseq
    · rw [hop, hn]
      exact h.running_op (hseq.symm.trans he)
    · nomatch hidle.symm.trans he
  k_le_n := by rw [hk, hn]; exact h.k_le_n
  n_le_four := by rw [hn]; exact h.n_le_four

/-- One more octet, while there is one left, keeps K within N. -/
theorem SequencerOk.advance {s t : State} (h : SequencerOk s) (hlt : s.k.toNat < s.n.toNat) (hseq : t.seq = s.seq)
    (hop : t.op = s.op) (hn : t.n = s.n) (hk : t.k = s.k + 1) : SequencerOk t where
  running_op he := by
    rw [hop, hn]
    exact h.running_op (hseq.symm.trans he)
  k_le_n := by
    rw [hk, hn, toNat_add_one_of_lt hlt]
    exact hlt
  n_le_four := by rw [hn]; exact h.n_le_four

/-- An accepted operation has its own N, with none of its octets moved. -/
theorem SequencerOk.of_accept {i : Instr} {c : BitVec 4} {m : BitVec 3} (hop : decodeOp c = .ok i)
    (hm : m.toNat = octets i) (s : State) : SequencerOk (acceptCommand c m s) where
  running_op _ := ⟨i, hop, hm⟩
  k_le_n := Nat.zero_le _
  n_le_four := by
    rw [acceptCommand_n, hm]
    cases i <;> decide

/-- A block after reset has nothing running. -/
theorem SequencerOk.of_reset (s : State) : SequencerOk (resetBlock s) where
  running_op he := nomatch he
  k_le_n := Nat.le_refl _
  n_le_four := Nat.zero_le _

/-- Each effect of a step keeps what the invariant says of the sequencer. -/
theorem Effect.sequencerOk {wr : Int → Word → Prop} {cmdLine : Octet → Prop} {s t : State}
    (e : Effect wr cmdLine s t) (h : SequencerOk s) : SequencerOk t := by
  cases e with
  | poll => exact h.congr (.inl (by simp)) (by simp) (by simp) (by simp)
  | accept v hw i c m idle hv hop hm => exact .of_accept hop hm s
  | put hv ok => exact h.advance (txValid_iff.1 hv).2.1 rfl rfl rfl rfl
  | take b hr ok => exact h.advance (rxReady_iff.1 hr).2.1 rfl rfl rfl rfl
  | abort => exact h.congr (.inr rfl) rfl rfl rfl
  | completeWrite => exact h.congr (.inr rfl) rfl rfl rfl
  | completeRead => exact h.congr (.inr rfl) rfl rfl rfl
  | completeHeader => exact h.congr (.inr rfl) rfl rfl rfl
  | completeCheck => exact h.congr (.inr rfl) rfl rfl rfl
  | reset => exact .of_reset s
  | _ => exact h.congr (.inl rfl) rfl rfl rfl

/-- The invariant, part by part. -/
theorem inv_iff (s : State) :
    Inv s ↔ (s.busy = true ↔ s.seq = .exec) ∧ (reportIn s.status).Ok ∧ s.status &&& 0xFFFCC0F0#32 = 0#32 ∧
      (flagsOf s).Agree ∧ SequencerOk s := by
  constructor
  · intro h
    exact ⟨h.busy_iff_exec, ⟨h.one_outcome, h.no_outcome_while_busy⟩, h.reserved_zero, ⟨h.hwf_eq, h.hvalid_eq⟩,
      h.running_op, h.k_le_n, h.n_le_four⟩
  · rintro ⟨hbusy, ⟨hone, hnone⟩, hreserved, ⟨hwf, hvalid⟩, hrun, hk, hn⟩
    exact ⟨hbusy, hone, hnone, hreserved, hwf, hvalid, hrun, hk, hn⟩

/-- The invariant holds of a block after reset. -/
theorem inv_resetBlock (s : State) : Inv (resetBlock s) := by
  have hok : (reportIn (resetBlock s).status).Ok := by
    rw [report_resetBlock]
    exact ⟨by decide, nofun⟩
  exact (inv_iff _).2 ⟨by simp [State.busy], hok, by simp, flagsOf_resetBlock_agree s, .of_reset s⟩

/-- Every step keeps the invariant. -/
theorem inv_step {s t : State} (hinv : Inv s) (h : step s = .next t) : Inv t := by
  obtain ⟨hbusy, -, hreserved, hagree, hseq⟩ := (inv_iff s).1 hinv
  obtain ⟨turn, p, -, -, e⟩ := step_effect h
  exact (inv_iff t).2 ⟨effect_busy_iff_exec e hbusy, report_ok hinv h, (step_status h).reserved_zero hreserved,
    flagsOf_step_agree hagree h, e.sequencerOk (hseq.congr (.inl rfl) rfl rfl rfl)⟩

end Sys2Proof.Machine

/-! PROOFS. The invariant and the outcome bits. -/

namespace Sys2Proof.Proofs

open Sys2Proof Sys2Proof.Machine Sys2Proof.Safety

/-- Settles O36: State.reset is a block after reset. -/
theorem invariantHoldsAtReset : Obligations.InvariantHoldsAtReset := inv_resetBlock State.reset

/-- Settles O37: part by part, from the inversions of the step for STATUS and for the whole state. -/
theorem everyStepKeepsTheInvariant : Obligations.EveryStepKeepsTheInvariant :=
  fun _ _ hinv h => inv_step hinv h

/-- Settles O42: each of the four events leaves its own report, and no other step changes the report. -/
theorem exactlyOneOutcomeIsReported : Obligations.ExactlyOneOutcomeIsReported := by
  refine ⟨fun s t hinv h hr => started_step_iff hinv h hr, fun s t h hr => ?_,
    fun s t hinv h => ⟨fun i hc _ => ?_, fun ha => ?_, fun v hw hb => ?_⟩, fun s t h hc ha hr hw => ?_⟩
  · obtain ⟨hbusy, hdone, hterr, hill⟩ := report_eq_iff.1 (report_reset hr h)
    exact ⟨by rw [outcomeCount, hdone, hterr, hill]; rfl, hbusy⟩
  · obtain ⟨-, hbits⟩ := report_eq_iff.1 (report_complete hinv hc h)
    exact hbits
  · obtain ⟨-, hbits⟩ := report_eq_iff.1 (report_abort hinv ha h)
    exact hbits
  · obtain ⟨⟨i, hi⟩, hreport⟩ | ⟨hv, hreport⟩ := report_command hw hb h
    · obtain ⟨-, hdone, hterr, hill⟩ := report_eq_iff.1 hreport
      exact ⟨hdone, hterr, by rw [hill]; exact ⟨nofun, fun hv => absurd hi (hv i)⟩⟩
    · obtain ⟨-, hdone, hterr, hill⟩ := report_eq_iff.1 hreport
      exact ⟨hdone, hterr, fun _ => hv, fun _ => hill⟩
  · obtain ⟨-, hbits⟩ := report_eq_iff.1 ((step_status h).report_kept hc ha hr hw)
    exact hbits

end Sys2Proof.Proofs

/-! SUPPORT for the statements about single steps: the host's lines and the agents' turns as steps of the machine, and
the bus addresses of the registers. -/

namespace Sys2Proof.Machine

open Sys2Proof.Safety

/-! ### The host's lines -/

/-- A legal word written to an idle block runs the operation it selects (10_state R29; log 16). -/
theorem step_command {s : State} {v : Word} {rest : List HostLine} {i : Instr} (h : AboutToWrite 0x00 v rest s)
    (hb : s.busy = false) (hd : decodeCommand v = .ok i) : step s = exec i (issued rest s) := by
  rw [step_write h]
  simp [fetchWrite, admitted, fetchCommand, hb, hd]

/-- A header line runs the header row it names (log 1). -/
theorem step_headerLine {s : State} {w : Word} {rest : List HostLine} {i : Instr}
    (h : AboutToIssue (.wireHeader w) rest s) (hd : decodeHeader w = .ok i) : step s = exec i (issued rest s) := by
  rw [step_issue h]
  simp [fetchLine, hd]

/-- A `wait` line polls STATUS (30_encoding R81; log 13). -/
theorem step_wait {s : State} {rest : List HostLine} (h : AboutToIssue .wait rest s) :
    step s = .next (pollStatus (issued rest s)) := step_issue h

/-- A write of STATUS clears its sticky bits (10_state R38). -/
theorem step_writeStatus {s : State} {v : Word} {rest : List HostLine} (h : AboutToWrite 0x0C v rest s) :
    step s = .next (writeStatus v (issued rest s)) := step_write h

/-- A write of STATUS, bit by bit: the two sticky bits are cleared where the value has a 1 (R38). -/
theorem getLsbD_clearSticky_ite (v st : Word) (j : Nat) :
    (clearSticky v st).getLsbD j =
      if j = 16 ∧ v.getLsbD 16 = true then false else if j = 17 ∧ v.getLsbD 17 = true then false else st.getLsbD j := by
  rw [getLsbD_clearSticky]
  by_cases h16 : j = 16 ∧ v.getLsbD 16 = true
  · rw [if_pos h16, h16.1, h16.2]
    simp
  by_cases h17 : j = 17 ∧ v.getLsbD 17 = true
  · rw [if_neg h16, if_pos h17, h17.1, h17.2]
    simp
  · have hkept : (j == 16 && v.getLsbD 16 || j == 17 && v.getLsbD 17) = false := by
      rw [Bool.or_eq_false_iff, Bool.eq_false_iff, Bool.eq_false_iff]
      simpa only [ne_eq, Bool.and_eq_true, beq_iff_eq] using And.intro h16 h17
    rw [if_neg h16, if_neg h17, hkept, Bool.not_false, Bool.and_true]

/-- The next turn is the host's with any other lines in the program, too: the schedule says so, or past its end no
completion is due (log 3). -/
theorem nextTurn_with_program {s : State} (h : nextTurn s = some .host) (l : HostLine) (ls : List HostLine) :
    nextTurn { s with program := l :: ls } = some .host := by
  have hdue : completionDue { s with program := l :: ls } = completionDue s := rfl
  unfold nextTurn at h ⊢
  rw [hdue]
  cases hs : s.schedule with
  | cons t ts => simpa [hs] using h
  | nil =>
    cases hc : completionDue s with
    | true => simp [hs, hc] at h
    | false => simp

/-- A header command's meaning is the first line of `hdr.send` with its opcode (R83; log 12). -/
theorem exec_header {op : Octet} {i : Instr} (h : decodeOpcode op = .ok i) (s : State) :
    exec i s = .next (sendHeaderCommand op s) := by
  revert h
  unfold decodeOpcode
  repeat' split
  all_goals (intro h; cases h)
  all_goals (subst_vars; rfl)

/-- A header command's word is a header that decodes to it. -/
theorem decodeHeader_encode {op : Octet} {i : Instr} (h : decodeOpcode op = .ok i) :
    decodeHeader (encode i) = .ok i := by
  rw [decodeOpcode_encode h, decodeHeader_encodeHeader, h]

/-- `W 0x04, v ; W 0x00, word of i ; wait` (R82): with SEND_HDR, the lines of `hdr.send` (R83). -/
def linesOf (i : Instr) (v : Word) : List HostLine := [.write 0x04 32 v, .write 0x00 32 (encode i), .wait]

/-- A step from a header command line is the step from the lines of `hdr.send` in its place (log 12). -/
theorem step_headerLine_eq {s : State} {op : Octet} {i : Instr} {rest : List HostLine} (hop : decodeOpcode op = .ok i)
    (h : AboutToIssue (.wireHeader (encode i)) rest s) :
    step s = step { s with program := linesOf .sendHdr (op.setWidth 32) ++ rest } := by
  have hfirst : AboutToWrite 0x04 (op.setWidth 32) (.write 0x00 32 0x00000009 :: .wait :: rest)
      { s with program := linesOf .sendHdr (op.setWidth 32) ++ rest } := .inl ⟨rfl, nextTurn_with_program h.2 ..⟩
  rw [step_headerLine h (decodeHeader_encode hop), exec_header hop, step_write hfirst]
  rfl

/-- The seven `cmd.<x>` lines expand to the lines of `hdr.send` with their command's opcode (R83). -/
theorem expansion_command {i : Instr} {l : AsmLine}
    (h : (i, l) ∈ [(Instr.hdrStatus, AsmLine.cmdStatus), (.hdrGetVoltage, .cmdGetVoltage), (.hdrRtcGet, .cmdRtcGet),
      (.hdrRtcSet, .cmdRtcSet), (.hdrMemRead, .cmdMemRead), (.hdrMemWrite, .cmdMemWrite),
      (.hdrExtendedStatus, .cmdExtStatus)]) :
    ∃ op, decodeOpcode op = .ok i ∧ expansion l = linesOf .sendHdr (op.setWidth 32) := by
  fin_cases h <;> exact ⟨_, (decodeOpcode_ok_iff _ _).2 ⟨by decide, rfl⟩, rfl⟩

/-- A table word's line, issued to an idle block, runs the word's instruction (log 8). -/
theorem step_lineOfWord {s : State} {w : Word} {i : Instr} {rest : List HostLine}
    (h : AboutToIssue (lineOfWord w) rest s) (hb : s.busy = false) (hd : decode w = .ok i) :
    step s = exec i (issued rest s) := by
  unfold lineOfWord at h
  cases hw : decodeHeader w with
  | ok j =>
    rw [hw] at h
    obtain rfl : i = j := encode_injective (((decode_ok_iff w i).1 hd).symm.trans (eq_encode_of_decodeHeader hw))
    exact step_headerLine h hw
  | error e =>
    rw [hw] at h
    have hc : decodeCommand w = .ok i := (decode_ok_cases hd).resolve_right (by simp [hw])
    exact step_command (.inl h) hb hc

/-- A number the table decodes is a word of its length, and the word decodes to the instruction (log 22). -/
theorem decodeTableWord_some {nbits w : Nat} {i : Instr} (h : decodeTableWord nbits w = some i) :
    w < 2 ^ nbits ∧ decode (BitVec.ofNat 32 w) = .ok i := by
  unfold decodeTableWord at h
  split at h
  case isTrue hw =>
    refine ⟨hw.2, ?_⟩
    cases hd : decode (BitVec.ofNat 32 w) with
    | ok j => simpa [hd, Except.toOption] using h
    | error e => simp [hd, Except.toOption] at h
  case isFalse => cases h

/-! ### The other turns -/

/-- The host's turn with no line to issue passes (log 4). -/
theorem step_host_done {s : State} (hn : nextTurn s = some .host) (hp : s.program = []) :
    step s = .next (takeTurn .host s) := by
  simp [step, fetch, hn, fetchTurn, fetchHost, hp]

/-- A second host's access is refused on its turn (60_exceptions R175; log 10). -/
theorem step_secondHost {s : State} (hn : nextTurn s = some .secondHost) : step s = .refused .secondHost := by
  simp [step, fetch, hn, fetchTurn]

/-- With nothing scheduled, nothing to issue and no completion due, no agent has a step (00_scope R13; log 3). -/
theorem step_stuck {s : State} (hs : s.schedule = []) (hp : s.program = []) (hc : completionDue s = false) :
    step s = .fault .stuck := by
  simp [step, fetch, nextTurn, hs, hp, hc]

/-- While octets are left, a turn on which neither stream answers passes (R184, 10_state R30). -/
theorem step_unanswered {s : State} {t : Turn} (he : s.seq = .exec) (hk : s.k.toNat < s.n.toNat)
    (hn : nextTurn s = some t) (hb : IsBlockTurn t) (htx : txAnswer t = .noAnswer) (hrx : rxAnswer t = .noAnswer) :
    step s = .next (takeTurn t s) := by
  cases hi : decodeOp s.op with
  | ok i =>
    have hpass : runningTransfer (takeTurn t s) = takeTurn t s := by
      simp [runningTransfer, transmit, receive, htx, hrx]
    rw [step_runningStep hn hb he hi, runningStep_of_lt (by exact hk), hpass]
  | error e => exact step_of_no_operation hn hb he hi

/-- The octets on the wire change only by the octet offered, which the sink accepted (20_memory R60, R64). -/
theorem step_txWire {s t : State} (h : step s = .next t) :
    t.txWire = s.txWire ∨
      ∃ b, txData s = some b ∧ nextTurn s = some (.txSink true false) ∧ t.txWire = s.txWire ++ [b] ∧ t.k = s.k + 1 := by
  obtain ⟨turn, p, hn, -, e⟩ := step_effect h
  cases e with
  | poll => simp
  | put hv ok => exact .inr ⟨_, if_pos hv, txAnswer_eq_ok.1 ok ▸ hn, rfl, rfl⟩
  | _ => exact .inl rfl

/-- DATA_IN changes only by the host's write of it, by a header command and by reset (10_state R27, 40_codec R101). -/
theorem step_dataIn {s t : State} (h : step s = .next t) :
    t.dataIn = s.dataIn ∨ nextTurn s = some .reset ∨ HostWrites 0x04 t.dataIn s ∨
      ∃ w i rest, AboutToIssue (.wireHeader w) rest s ∧ decodeHeader w = .ok i ∧
        t.dataIn = (w.extractLsb' 8 8).setWidth 32 := by
  obtain ⟨turn, p, hn, -, e⟩ := step_effect h
  cases e with
  | poll => simp
  | dataIn v host => exact .inr (.inr (.inl host))
  | header o host =>
    obtain ⟨w, i, rest, hissue, hd, rfl⟩ := host
    exact .inr (.inr (.inr ⟨w, i, rest, hissue, hd, rfl⟩))
  | reset ht => exact .inr (.inl (ht ▸ hn))
  | _ => exact .inl rfl

/-- What a step does to an operation with octets left, from a state in which BUSY is SEQ=EXEC: it goes on, with an octet
more only if one was accepted or taken, or it is over by an abort or by reset (10_state R30, 70_reset R184). -/
theorem step_waiting {s t : State} (hb : s.busy = true ↔ s.seq = .exec) (he : s.seq = .exec)
    (hlt : s.k.toNat < s.n.toNat) (h : step s = .next t) :
    (t.seq = .exec ∧ t.op = s.op ∧ t.opnd = s.opnd ∧ t.n = s.n ∧ ((t.k = s.k ∧ t.acc = s.acc) ∨
      (t.k = s.k + 1 ∧ ((txValid s = true ∧ nextTurn s = some (.txSink true false) ∧ t.acc = s.acc) ∨
        (rxReady s = true ∧ ∃ b, nextTurn s = some (.rxSource true false b) ∧
          t.acc = s.acc.extractLsb' 0 24 ++ b))))) ∨
    (t.seq = .idle ∧ (Aborts s ∨ nextTurn s = some .reset)) := by
  have hbusy : s.busy = true := hb.2 he
  have full {P : Prop} (hk : s.k = s.n) : P := absurd hlt (by simp [hk])
  obtain ⟨turn, p, hn, -, e⟩ := step_effect h
  cases e with
  | poll => exact .inl ⟨by simp [he], by simp, by simp, by simp, .inl ⟨by simp, by simp⟩⟩
  | illegal v hw idle => nomatch hbusy.symm.trans idle
  | accept v hw i c m idle => nomatch hbusy.symm.trans idle
  | put hv ok => exact .inl ⟨he, rfl, rfl, rfl, .inr ⟨rfl, .inl ⟨hv, txAnswer_eq_ok.1 ok ▸ hn, rfl⟩⟩⟩
  | take b hr ok => exact .inl ⟨he, rfl, rfl, rfl, .inr ⟨rfl, .inr ⟨hr, b, rxAnswer_eq_ok.1 ok ▸ hn, rfl⟩⟩⟩
  | abort waits => exact .inr ⟨rfl, .inl (aborts_of_err hn waits)⟩
  | completeWrite _ hk => exact full hk
  | completeRead _ hk => exact full hk
  | completeHeader _ hk => exact full hk
  | completeCheck _ hk => exact full hk
  | reset ht => exact .inr ⟨rfl, .inr (ht ▸ hn)⟩
  | _ => exact .inl ⟨he, rfl, rfl, rfl, .inl ⟨rfl, rfl⟩⟩

/-! ### Bus addresses -/

/-- A transaction at an address of the window is the host's access at its offset (10_state R22, R23). -/
theorem line_at_windowAddress {off : Nat} (h : off < 16) (bits : Nat) (v : Word) :
    lineOfTransaction (.read (windowAddress off) bits) = .read off bits ∧
      lineOfTransaction (.write (windowAddress off) bits v) = .write off bits v := by
  simp only [lineOfTransaction, busOffset_windowAddress h, and_self]

/-- An access of another width, or at an address that is none of the four registers', reaches no register (R24). -/
theorem admitted_busOffset_eq_none {addr : BusAddress} {bits : Nat}
    (h : ¬ (bits = 32 ∧ addr ∈ [windowAddress 0, windowAddress 4, windowAddress 8, windowAddress 12])) :
    admitted (Config.busOffset addr) bits = none := by
  rw [admitted_eq_none_iff]
  rintro ⟨hbits, hoff⟩
  refine h ⟨hbits, ?_⟩
  simp only [List.mem_cons, List.not_mem_nil, or_false] at hoff ⊢
  exact hoff.imp (eq_windowAddress (off := 0) (by decide)) (Or.imp (eq_windowAddress (off := 4) (by decide))
    (Or.imp (eq_windowAddress (off := 8) (by decide)) (eq_windowAddress (off := 12) (by decide))))

end Sys2Proof.Machine

/-! PROOFS. The statements about single steps. -/

namespace Sys2Proof.Proofs

open Sys2Proof Sys2Proof.Machine Sys2Proof.Safety

/-- Settles O5: each register's address falls at the register's offset, and an address that falls at one of the four
offsets is that register's. -/
theorem busAddressesCountFromRegBase : Obligations.BusAddressesCountFromRegBase := by
  have atRead {s : State} {rest : List HostLine} {off : Nat} (hoff : off < 16)
      (h : AboutToIssue (lineOfTransaction (.read (windowAddress off) 32)) rest s) :
      AboutToIssue (.read off 32) rest s := (line_at_windowAddress hoff 32 0).1 ▸ h
  have atWrite {s : State} {rest : List HostLine} {off : Nat} {v : Word} (hoff : off < 16)
      (h : AboutToIssue (lineOfTransaction (.write (windowAddress off) 32 v)) rest s) :
      AboutToWrite off v rest s := .inl ((line_at_windowAddress hoff 32 v).2 ▸ h)
  refine ⟨fun off h => windowAddress_toNat h, fun s addr bits v rest =>
    ⟨fun h => ⟨?_, ?_, ?_, ?_⟩, fun h => ⟨?_, ?_, ?_, ?_, ?_, ?_⟩, fun hout h => ?_⟩⟩
  · rintro rfl rfl
    exact step_read (r := .cmd) (atRead (by decide) h) rfl
  · rintro rfl rfl
    exact step_read (r := .dataIn) (atRead (by decide) h) rfl
  · rintro rfl rfl
    exact step_read (r := .result) (atRead (by decide) h) rfl
  · rintro rfl rfl
    exact step_read (r := .status) (atRead (by decide) h) rfl
  · rintro rfl rfl hb
    exact step_reject (atWrite (by decide) h) hb
  · rintro rfl rfl hb i hd
    exact step_command (atWrite (by decide) h) hb hd
  · rintro rfl rfl hb hill
    exact step_illegal (atWrite (by decide) h) hb hill
  · rintro rfl rfl
    exact step_write (atWrite (off := 4) (by decide) h)
  · rintro rfl rfl
    exact step_write (atWrite (off := 8) (by decide) h)
  · rintro rfl rfl
    exact ⟨_, step_writeStatus (atWrite (by decide) h), getLsbD_clearSticky_ite v s.status⟩
  · obtain h | h := h
    · exact step_read_refused h (admitted_busOffset_eq_none hout)
    · rw [step_issue h]
      exact fetchWrite_refuses (admitted_busOffset_eq_none hout) v _

/-- Settles O11: the step is `writeStatus`, which clears the sticky bits the value has. -/
theorem statusWriteClearsOnlyStickyBits : Obligations.StatusWriteClearsOnlyStickyBits :=
  fun s v _ h => ⟨_, step_writeStatus h, getLsbD_clearSticky_ite v s.status⟩

/-- Settles O27: the line's meaning and the first line of its expansion both store the opcode and leave the other two
lines. -/
theorem headerLineIsItsExpansion : Obligations.HeaderLineIsItsExpansion := by
  intro s i l rest hil h
  obtain ⟨op, hop, hl⟩ := expansion_command hil
  rw [hl]
  exact step_headerLine_eq hop h

/-- Settles O32: no effect of a step but the sink's acceptance touches the wire. -/
theorem wireGrowsOnlyByOfferedOctets : Obligations.WireGrowsOnlyByOfferedOctets :=
  fun _ _ h => step_txWire h

/-- Settles O33: the turns without an answer, the effects on a waiting operation, and the turns of an idle block and of
a host with no line. -/
theorem waitEndsOnlyByStreamOrReset : Obligations.WaitEndsOnlyByStreamOrReset :=
  ⟨fun _ _ he hk hn hb htx hrx => step_unanswered he hk hn hb htx hrx,
    fun _ _ hinv he hk h => step_waiting hinv.busy_iff_exec he hk h,
    fun _ _ he hn hb => step_idle hn hb he, fun _ hn hp => step_host_done hn hp⟩

/-- Settles O43: DATA_IN's own inversion of the step. -/
theorem dataInChangesOnlyByTheHost : Obligations.DataInChangesOnlyByTheHost :=
  fun _ _ h hne => (step_dataIn h).resolve_left hne

/-- Settles O2: a reset step writes the block's registers only. -/
theorem resetKeepsTheEnvironment : Obligations.ResetKeepsTheEnvironment :=
  fun _ hn => ⟨_, step_reset hn, rfl, rfl, rfl, rfl, rfl, rfl⟩

/-- Settles O6: the turn itself is refused. -/
theorem secondHostIsRefused : Obligations.SecondHostIsRefused := fun _ hn => step_secondHost hn

/-- Settles O12: each of the words is read by computation. -/
theorem tableWordsDecodeToTheirRows : Obligations.TableWordsDecodeToTheirRows := by
  unfold Obligations.TableWordsDecodeToTheirRows
  decide

/-- Settles O15: the step by the kind of turn. -/
theorem stepRunsTheDecodedInstruction : Obligations.StepRunsTheDecodedInstruction :=
  ⟨fun _ _ _ _ h hb hd => step_command h hb hd, fun _ _ _ _ h hd => step_headerLine h hd,
    fun _ _ _ hn hb he hi => step_running hn hb he hi⟩

/-- Settles O16: withFetchWord places the word's own line and the host's turn first. -/
theorem fetchWordIsTheNextInstruction : Obligations.FetchWordIsTheNextInstruction := by
  intro s nbits w i hb h
  obtain ⟨hw, hd⟩ := decodeTableWord_some h
  have hissue : AboutToIssue (lineOfWord (BitVec.ofNat 32 w)) s.program (s.withFetchWord nbits w) := by
    refine ⟨?_, rfl⟩
    rw [State.withFetchWord, Nat.mod_eq_of_lt hw]
  exact step_lineOfWord hissue hb hd

/-- Settles O26: each row is the header command of its opcode. -/
theorem headerCommandsIssueHdrSend : Obligations.HeaderCommandsIssueHdrSend := by
  intro s i op h
  have hop : ∃ o : Octet, decodeOpcode o = .ok i ∧ op = o.setWidth 32 := by
    fin_cases h <;> exact ⟨_, (decodeOpcode_ok_iff _ _).2 ⟨by decide, rfl⟩, rfl⟩
  obtain ⟨o, ho, rfl⟩ := hop
  exact exec_header ho s

/-- Settles O34: with SEQ idle or octets left no completion is due. -/
theorem nothingLeftToDoIsStuck : Obligations.NothingLeftToDoIsStuck := by
  intro s hs hp h
  refine step_stuck hs hp ?_
  obtain hidle | hne := h
  · simp [completionDue, hidle]
  · simp [completionDue, hne]

/-- Settles O58: the step is one poll, which keeps the line exactly while it reads BUSY. -/
theorem waitPollsUntilNotBusy : Obligations.WaitPollsUntilNotBusy := by
  intro s rest h
  have hbusy : (issued rest s).busy = s.status.getLsbD 0 := rfl
  rw [step_wait h, pollStatus, hbusy]
  split <;> rfl

end Sys2Proof.Proofs

/-! SUPPORT for the frame of the nine operations: everything the meaning of one operation can do on any turn. -/

namespace Sys2Proof.Machine

/-! ### What one operation can do -/

/-- An operation's meaning is `runOperation` with its code, its number of octets and its two parts (log 16). -/
theorem exec_eq_runOperation {c : BitVec 4} {i : Instr} (hi : decodeOp c = .ok i) (s : State) :
    ∃ transfer complete, exec i s = .next (runOperation c (BitVec.ofNat 3 (octets i)) transfer complete s) := by
  cases i <;> simp [decodeOp_ok_iff] at hi <;> subst hi <;> exact ⟨_, _, rfl⟩

/-- Everything operation `i` can do from `s`, the state in which the turn is taken: on the host's turn a rejection or an
acceptance (10_state R29); on any other turn, if `i` runs, an octet moved on the stream of its kind, the abort of an
operation that has a stream, or its completion (R30, R33, 60_exceptions R163); or nothing (log 4). -/
inductive OperationEffect (i : Instr) (s : State) : State → Prop where
  | reject (host : s.turn = .host) : OperationEffect i s (rejectCommand s)
  | accept (host : s.turn = .host) (c : BitVec 4) (m : BitVec 3) : OperationEffect i s (acceptCommand c m s)
  | pass (off : s.turn ≠ .host) : OperationEffect i s s
  | put (off : s.turn ≠ .host) (tx : i ∈ [.wrU8, .wrU16, .wrU32, .sendHdr]) (b : Octet) :
      OperationEffect i s (putOctet b s)
  | take (off : s.turn ≠ .host) (rx : i ∈ [.rdU8, .rdU16, .rdU32]) (b : Octet) : OperationEffect i s (takeOctet b s)
  | abort (off : s.turn ≠ .host) (stream : i ∉ [.buildHdr, .checkHdr]) : OperationEffect i s (raiseTransportError s)
  | complete (off : s.turn ≠ .host) : OperationEffect i s (completion i s)

/-- The transfer of a running operation is on the stream of its kind; BUILD_HDR and CHECK_HDR have none. -/
theorem runningTransfer_effect {i : Instr} {s : State} (hi : decodeOp s.op = .ok i) (ht : s.turn ≠ .host) :
    OperationEffect i s (runningTransfer s) := by
  have kind {js : List Instr} (h : ∃ j, decodeOp s.op = .ok j ∧ j ∈ js) : i ∈ js := by
    obtain ⟨j, hj, hmem⟩ := h
    rwa [Except.ok.inj (hi.symm.trans hj)]
  unfold runningTransfer
  split
  case isTrue htx =>
    have hmem := kind ((isTxOp_iff _).1 htx)
    have hstream : i ∉ [.buildHdr, .checkHdr] := by fin_cases hmem <;> decide
    unfold transmit
    split
    · exact .put ht hmem _
    · exact .abort ht hstream
    · exact .pass ht
  case isFalse =>
    split
    case isTrue hrx =>
      have hmem := kind ((isRxOp_iff _).1 hrx)
      have hstream : i ∉ [.buildHdr, .checkHdr] := by fin_cases hmem <;> decide
      unfold receive
      split
      · exact .take ht hmem _
      · exact .abort ht hstream
      · exact .pass ht
    case isFalse => exact .pass ht

/-- The inversion of an operation's meaning. -/
theorem exec_operation {c : BitVec 4} {i : Instr} {s t : State} (hi : decodeOp c = .ok i) (h : exec i s = .next t) :
    OperationEffect i s t := by
  obtain ⟨transfer, complete, hexec⟩ := exec_eq_runOperation hi s
  by_cases ht : s.turn = .host
  · rw [hexec, runOperation, if_pos ht, commandWrite] at h
    cases h
    split
    · exact .reject ht
    · exact .accept ht c _
  · by_cases hrun : s.seq = .exec ∧ s.op = c
    · obtain ⟨he, hop⟩ := hrun
      have hi' : decodeOp s.op = .ok i := hop ▸ hi
      cases h.symm.trans (exec_running hi' he ht)
      unfold runningStep sequencerStep
      split
      · exact runningTransfer_effect hi' ht
      · split
        · exact .complete ht
        · exact .pass ht
    · rw [hexec, runOperation, if_neg ht, if_neg hrun] at h
      cases h
      exact .pass ht

namespace OperationEffect

variable {i : Instr} {s t : State}

/-- What every operation leaves unchanged on every turn (R29, R30). -/
theorem environment (e : OperationEffect i s t) :
    t.dataIn = s.dataIn ∧ t.turn = s.turn ∧ t.schedule = s.schedule ∧ t.program = s.program ∧ t.reads = s.reads := by
  cases e with
  | complete => simp
  | _ => exact ⟨rfl, rfl, rfl, rfl, rfl⟩

/-- Off the host's turn the registers of the accepted command stay (R29). -/
theorem command (e : OperationEffect i s t) (ht : s.turn ≠ .host) : t.op = s.op ∧ t.opnd = s.opnd ∧ t.n = s.n := by
  cases e with
  | reject host => exact absurd host ht
  | accept host => exact absurd host ht
  | complete => simp
  | _ => exact ⟨rfl, rfl, rfl⟩

/-- On the host's turn neither the streams nor RESULT are touched (R29). -/
theorem streams_on_host (e : OperationEffect i s t) (ht : s.turn = .host) :
    t.txWire = s.txWire ∧ t.rxTaken = s.rxTaken ∧ t.result = s.result := by
  cases e with
  | reject | accept => exact ⟨rfl, rfl, rfl⟩
  | pass off | put off | take off | abort off | complete off => exact absurd ht off

/-- STATUS off the header flags: on the host's turn only the outcome bits, BUSY and REJ change, off it only the outcome
bits, BUSY and DESYNC (R29, R33, R163). -/
theorem status_rest {c : BitVec 4} (hi : decodeOp c = .ok i) (e : OperationEffect i s t) {j : Nat} (h4 : 4 ≤ j)
    (hflag : ¬ (8 ≤ j ∧ j ≤ 13)) (h16 : j = 16 → s.turn = .host ∨ i ∈ [.buildHdr, .checkHdr])
    (h17 : j = 17 → s.turn ≠ .host) : t.status.getLsbD j = s.status.getLsbD j := by
  have h0 : j ≠ 0 := by omega
  have h1 : j ≠ 1 := by omega
  have h2 : j ≠ 2 := by omega
  have h3 : j ≠ 3 := by omega
  cases e with
  | pass | put | take => rfl
  | reject host =>
    have hj : j ≠ 17 := fun h => h17 h host
    simp [hj]
  | accept => simp [h0, h1, h2, h3]
  | abort off stream =>
    have hj : j ≠ 16 := fun h => (h16 h).elim off stream
    simp [h0, h2, hj]
  | complete =>
    obtain ⟨-, -, hrest⟩ := completion_status hi s
    exact hrest j h0 h1 hflag

/-- The header flags stay on the host's turn and in every codec operation (R35). -/
theorem headerFlag (e : OperationEffect i s t) {j : Nat} (h8 : 8 ≤ j) (h13 : j ≤ 13)
    (hcodec : s.turn = .host ∨ i ∈ [.wrU8, .wrU16, .wrU32, .rdU8, .rdU16, .rdU32]) :
    t.status.getLsbD j = s.status.getLsbD j := by
  have h0 : j ≠ 0 := by omega
  have h1 : j ≠ 1 := by omega
  have h2 : j ≠ 2 := by omega
  have h3 : j ≠ 3 := by omega
  have h16 : j ≠ 16 := by omega
  have h17 : j ≠ 17 := by omega
  cases e with
  | pass | put | take => rfl
  | reject => simp [h17]
  | accept => simp [h0, h1, h2, h3]
  | abort => simp [h0, h2, h16]
  | complete off =>
    rw [completion_status_codec (hcodec.resolve_left off), getLsbD_completedStatus, if_neg h0, if_neg h1]

/-- The wire changes only in an operation that sends, the octets taken only in one that receives. -/
theorem streams (e : OperationEffect i s t) :
    (i ∉ [.wrU8, .wrU16, .wrU32, .sendHdr] → t.txWire = s.txWire) ∧
      (i ∉ [.rdU8, .rdU16, .rdU32] → t.rxTaken = s.rxTaken) := by
  cases e with
  | put off tx => exact ⟨fun h => absurd tx h, fun _ => rfl⟩
  | take off rx => exact ⟨fun _ => rfl, fun h => absurd rx h⟩
  | complete => simp
  | _ => exact ⟨fun _ => rfl, fun _ => rfl⟩

/-- Off the host's turn ACC changes only in an operation that receives (R30). -/
theorem acc (e : OperationEffect i s t) (hi : i ∉ [.rdU8, .rdU16, .rdU32]) (ht : s.turn ≠ .host) : t.acc = s.acc := by
  cases e with
  | accept host => exact absurd host ht
  | take off rx => exact absurd rx hi
  | complete => simp
  | _ => rfl

/-- Off the host's turn K changes only in an operation that has a stream (R30). -/
theorem k (e : OperationEffect i s t) (hi : i ∈ [.buildHdr, .checkHdr]) (ht : s.turn ≠ .host) : t.k = s.k := by
  cases e with
  | accept host => exact absurd host ht
  | put off tx => fin_cases hi <;> simp at tx
  | take off rx => fin_cases hi <;> simp at rx
  | complete => simp
  | _ => rfl

/-- RESULT stays in the operations that deliver none (R33). -/
theorem result (e : OperationEffect i s t) (hi : i ∈ [.wrU8, .wrU16, .wrU32, .checkHdr]) : t.result = s.result := by
  cases e with
  | complete => fin_cases hi <;> rfl
  | _ => rfl

end OperationEffect

/-- The nine operations (30_encoding R72). -/
def operations : List Instr := [.wrU8, .wrU16, .wrU32, .rdU8, .rdU16, .rdU32, .buildHdr, .sendHdr, .checkHdr]

/-- Each operation has a code. -/
theorem exists_code {i : Instr} (h : i ∈ operations) : ∃ c, decodeOp c = .ok i := by
  fin_cases h <;> simp [decodeOp_ok_iff]

/-- A codec write is an operation with no RESULT and no octet taken. -/
theorem write_kind : ∀ i ∈ [Instr.wrU8, .wrU16, .wrU32],
    i ∈ operations ∧ i ∈ [.wrU8, .wrU16, .wrU32, .rdU8, .rdU16, .rdU32] ∧ i ∈ [.wrU8, .wrU16, .wrU32, .checkHdr] ∧
      i ∉ [.rdU8, .rdU16, .rdU32] := by decide

/-- A codec read is an operation that sends nothing. -/
theorem read_kind : ∀ i ∈ [Instr.rdU8, .rdU16, .rdU32],
    i ∈ operations ∧ i ∈ [.wrU8, .wrU16, .wrU32, .rdU8, .rdU16, .rdU32] ∧ i ∉ [.wrU8, .wrU16, .wrU32, .sendHdr] := by
  decide

/-- BUILD_HDR and CHECK_HDR are operations that move no octet. -/
theorem pure_kind : ∀ i ∈ [Instr.buildHdr, .checkHdr],
    i ∈ operations ∧ i ∉ [.wrU8, .wrU16, .wrU32, .sendHdr] ∧ i ∉ [.rdU8, .rdU16, .rdU32] := by decide

end Sys2Proof.Machine

/-! PROOFS. The frame of the operations. -/

namespace Sys2Proof.Proofs

open Sys2Proof Sys2Proof.Machine

/-- Settles O28: the effects of an operation's meaning, by what each of them leaves alone. -/
theorem eachOperationKeepsItsFrame : Obligations.EachOperationKeepsItsFrame := by
  intro s t i h
  have effect (hi : i ∈ operations) : OperationEffect i s t := by
    obtain ⟨c, hc⟩ := exists_code hi
    exact exec_operation hc h
  refine ⟨fun hi => ?_, fun hi => ?_, fun hi => ?_, fun hi => ?_, ?_, ?_⟩
  · have e := effect hi
    obtain ⟨c, hc⟩ := exists_code hi
    obtain ⟨hdata, hturn, hsched, hprog, hreads⟩ := e.environment
    refine ⟨hdata, hturn, hsched, hprog, hreads, fun j h4 h16 h17 hflag => ?_, fun ht => ?_, fun ht => ?_⟩
    · exact e.status_rest hc h4 hflag (fun h => absurd h h16) (fun h => absurd h h17)
    · obtain ⟨hop, hopnd, hn⟩ := e.command ht
      exact ⟨hop, hopnd, hn, e.status_rest hc (by decide) (by decide) nofun (fun _ => ht)⟩
    · obtain ⟨htx, hrx, hresult⟩ := e.streams_on_host ht
      exact ⟨htx, hrx, hresult, e.status_rest hc (by decide) (by decide) (fun _ => .inl ht) nofun,
        fun j h8 h13 => e.headerFlag h8 h13 (.inl ht)⟩
  · obtain ⟨hnine, hcodec, hresult, hrx⟩ := write_kind i hi
    have e := effect hnine
    exact ⟨e.result hresult, e.streams.2 hrx, e.acc hrx, fun j h8 h13 => e.headerFlag h8 h13 (.inr hcodec)⟩
  · obtain ⟨hnine, hcodec, htx⟩ := read_kind i hi
    have e := effect hnine
    exact ⟨e.streams.1 htx, fun j h8 h13 => e.headerFlag h8 h13 (.inr hcodec)⟩
  · obtain ⟨hnine, htx, hrx⟩ := pure_kind i hi
    have e := effect hnine
    obtain ⟨c, hc⟩ := exists_code hnine
    exact ⟨e.streams.1 htx, e.streams.2 hrx, e.status_rest hc (by decide) (by decide) (fun _ => .inr hi) nofun,
      fun ht => ⟨e.acc hrx ht, e.k hi ht⟩⟩
  · rintro rfl
    exact (effect (by decide)).result (by decide)
  · rintro rfl
    have e := effect (by decide)
    exact ⟨e.streams.2 (by decide), e.acc (by decide)⟩

end Sys2Proof.Proofs

/-! SUPPORT for the statements about whole runs: what a completed command leaves, the value of octets as a number, and
the runs of the sending lines of a host program. -/

namespace Sys2Proof.Machine

open Sys2Proof.Safety

/-! ### What a completed command leaves -/

/-- A completed command is idle and reports DONE alone; STATUS is as before the command but for the report and the
header flags (10_state R29, R33). -/
theorem completion_of_accepted {c : BitVec 4} {i : Instr} (hi : decodeOp c = .ok i) {s : State} {st : Word}
    (h : s.status = acceptedStatus st) :
    (completion i s).seq = .idle ∧ reportIn (completion i s).status = ⟨false, true, false, false⟩ ∧
      ∀ j, 4 ≤ j → ¬ (8 ≤ j ∧ j ≤ 13) → (completion i s).status.getLsbD j = st.getLsbD j := by
  obtain ⟨hdone, hbusy, hrest⟩ := completion_status hi s
  have hterr : (completion i s).terr = false := (hrest 2 (by decide) (by decide) (by decide)).trans (by simp [h])
  have hill : (completion i s).ill = false := (hrest 3 (by decide) (by decide) (by decide)).trans (by simp [h])
  refine ⟨congrArg State.seq (completion_frame hi s), report_eq_iff.2 ⟨hbusy, hdone, hterr, hill⟩,
    fun j h4 hflag => ?_⟩
  rw [hrest j (by omega) (by omega) hflag, h, getLsbD_acceptedStatus]
  repeat rw [if_neg (by omega)]

/-- A completed codec command leaves the header flags (R35). -/
theorem completion_of_accepted_codec {i : Instr} (hi : i ∈ [.wrU8, .wrU16, .wrU32, .rdU8, .rdU16, .rdU32]) {s : State}
    {st : Word} (h : s.status = acceptedStatus st) {j : Nat} (h4 : 4 ≤ j) :
    (completion i s).status.getLsbD j = st.getLsbD j := by
  rw [completion_status_codec hi, h, getLsbD_completedStatus, getLsbD_acceptedStatus]
  repeat rw [if_neg (by omega)]

/-- A completed transmission keeps what accept and the transfers left in the hidden registers (40_codec R92 to R94). -/
theorem transmitted_registers (i : Instr) (prog : List HostLine) (later : List Turn) (s : State) :
    (transmitted i prog later s).op = (encode i).extractLsb' 0 4 ∧ (transmitted i prog later s).opnd = s.dataIn ∧
    (transmitted i prog later s).n.toNat = octets i ∧
    (transmitted i prog later s).k = (transmitted i prog later s).n ∧ (transmitted i prog later s).acc = 0 := by
  have hn := toNat_ofNat_octets i
  simp [transmitted, sent, accepted, hn]

/-- A completed read keeps what accept and the transfers left in the hidden registers (40_codec R95 to R97). -/
theorem readOut_registers {i : Instr} (hi : i ∈ [.rdU8, .rdU16, .rdU32]) {bs : List Octet}
    (hlen : bs.length = octets i) (prog : List HostLine) (later : List Turn) (s : State) :
    (readOut i bs prog later s).op = (encode i).extractLsb' 0 4 ∧ (readOut i bs prog later s).opnd = s.dataIn ∧
    (readOut i bs prog later s).n.toNat = octets i ∧
    (readOut i bs prog later s).k = (readOut i bs prog later s).n ∧
    (readOut i bs prog later s).acc = (readOut i bs prog later s).result := by
  have hn := toNat_ofNat_octets i
  rw [readOut_result hi]
  simp [readOut, received, accepted, hn, hlen, valueOf]

/-- SEND_HDR, completed, leaves the header of DATA_IN in RESULT and its flags in STATUS; the codec writes leave RESULT
(41_framer R113). -/
theorem transmitted_result {i : Instr} (hi : i ∈ [.wrU8, .wrU16, .wrU32, .sendHdr]) (prog : List HostLine)
    (later : List Turn) (s : State) :
    (transmitted i prog later s).result = if i = .sendHdr then hdr (s.dataIn.extractLsb' 0 8) else s.result := by
  fin_cases hi <;> rfl

/-- The flags SEND_HDR leaves. -/
theorem transmitted_sendHdr_flags (prog : List HostLine) (later : List Turn) (s : State) :
    flagsOf (transmitted .sendHdr prog later s) = headerFlags (hdr (s.dataIn.extractLsb' 0 8)) :=
  flagsOf_completed (completion_status_reports (.inl ⟨by decide, rfl⟩))

/-! ### The value of octets as a number -/

/-- Shifting an octet into a value below 2^24 multiplies it by 256 and adds the octet (10_state R30). -/
theorem toNat_shiftIn {acc : Word} (h : acc.toNat < 2 ^ 24) (b : Octet) :
    (shiftIn acc b).toNat = 256 * acc.toNat + b.toNat := by
  rw [shiftIn, BitVec.toNat_append, BitVec.extractLsb'_toNat, Nat.shiftRight_zero, Nat.mod_eq_of_lt h,
    ← Nat.shiftLeft_add_eq_or_of_lt b.isLt, Nat.shiftLeft_eq]
  omega

/-- The big-endian number of octets, the first the most significant (40_codec R95 to R97). -/
def bigEndian (bs : List Octet) : Nat := bs.foldl (fun v b => 256 * v + b.toNat) 0

theorem bigEndian_concat (bs : List Octet) (b : Octet) : bigEndian (bs ++ [b]) = 256 * bigEndian bs + b.toNat := by
  simp [bigEndian]

/-- The number of `n` octets has `8 n` bits. -/
theorem bigEndian_lt (bs : List Octet) : bigEndian bs < 2 ^ (8 * bs.length) := by
  induction bs using List.reverseRecOn with
  | nil => decide
  | append_singleton bs b ih =>
    have hb : b.toNat < 256 := b.isLt
    rw [bigEndian_concat, List.length_append, List.length_singleton, Nat.mul_succ, Nat.pow_add]
    omega

/-- What a read delivers is the big-endian number of its octets, of which there are at most four. -/
theorem toNat_valueOf {bs : List Octet} (h : bs.length ≤ 4) : (valueOf bs).toNat = bigEndian bs := by
  induction bs using List.reverseRecOn with
  | nil => rfl
  | append_singleton bs b ih =>
    rw [List.length_append, List.length_singleton] at h
    have hvalue := ih (by omega)
    have hlt : (valueOf bs).toNat < 2 ^ 24 := by
      rw [hvalue]
      exact (bigEndian_lt bs).trans_le (Nat.pow_le_pow_right (by decide) (by omega))
    rw [valueOf_concat, toNat_shiftIn hlt, hvalue, bigEndian_concat]

end Sys2Proof.Machine

/-! PROOFS. The runs of one command. -/

namespace Sys2Proof.Proofs

open Sys2Proof Sys2Proof.Machine Sys2Proof.Safety

/-- Settles O46: the run ends in the completed transmission, whose fields are those of the accepted command, its
transfers and its completion. -/
theorem transmissionRunPutsTheOctetsOnTheWire : Obligations.TransmissionRunPutsTheOctetsOnTheWire := by
  intro s i prog later hi hb hp hs
  obtain ⟨hd, -⟩ := encode_txOp hi
  obtain ⟨hdata, hrx, hreads, hprog, hsched⟩ := transmitted_keeps i prog later s
  obtain ⟨hseq, hreport, hrest⟩ :=
    completion_of_accepted ((decodeCommand_ok_iff _ _).1 hd).2
      (s := sent (octets i) .block later (accepted i prog s)) (st := s.status) rfl
  obtain ⟨hbusy, hdone, hterr, hill⟩ := report_eq_iff.1 hreport
  refine ⟨_, runs_transmitted hi hb hp hs, ?_, transmitted_result hi .., hdata, hrx, hreads, hprog, hsched, hseq, hbusy,
    hdone, hterr, hill, fun j h4 hflag => ?_, ?_, transmitted_registers i prog later s⟩
  · rw [transmitted_txWire, txWord_accepted hi]
  · by_cases hflags : 8 ≤ j ∧ j ≤ 13
    · have hcodec : i ∈ [.wrU8, .wrU16, .wrU32, .rdU8, .rdU16, .rdU32] := by
        have hne : i ≠ .sendHdr := fun h => hflag ⟨h, hflags⟩
        fin_cases hi <;> simp at hne ⊢
      exact completion_of_accepted_codec hcodec rfl h4
    · exact hrest j h4 hflags
  · rintro rfl
    exact transmitted_sendHdr_flags prog later s

/-- Settles O47: the run ends in the completed read, which delivers the value of the octets taken. -/
theorem receptionRunDeliversTheValue : Obligations.ReceptionRunDeliversTheValue := by
  intro s i bs prog later hi hlen hb hp hs
  obtain ⟨hd, -⟩ := encode_rxOp hi
  obtain ⟨hdata, htx, hrx, hreads, hprog, hsched⟩ := readOut_keeps i bs prog later s
  obtain ⟨hseq, hreport, -⟩ :=
    completion_of_accepted ((decodeCommand_ok_iff _ _).1 hd).2
      (s := received bs .block later (accepted i prog s)) (st := s.status) rfl
  obtain ⟨hbusy, hdone, hterr, hill⟩ := report_eq_iff.1 hreport
  have hle : bs.length ≤ 4 := by
    rw [hlen]
    fin_cases hi <;> decide
  refine ⟨_, runs_readOut hi hlen hb hp hs, ?_, hrx, htx, hdata, hreads, hprog, hsched, hseq, hbusy, hdone, hterr, hill,
    fun j h4 => ?_, readOut_registers hi hlen prog later s⟩
  · rw [readOut_result hi]
    exact toNat_valueOf hle
  · obtain ⟨-, hcodec, -⟩ := read_kind i hi
    exact completion_of_accepted_codec hcodec rfl h4

/-- Settles O49: the sink's run takes one octet a ready turn, from the octets that are left. -/
theorem partialAcceptanceIsNoError : Obligations.PartialAcceptanceIsNoError := by
  intro s i readies later hinv he hop hi hk hs
  obtain ⟨turn, hrun⟩ := runs_sink he ((isTxOp_iff _).2 ⟨i, hop, hi⟩) hk hs
  have hn : s.n.toNat = octets i := by
    obtain ⟨j, hj, hn⟩ := hinv.running_op he
    rw [hn, Except.ok.inj (hj.symm.trans hop)]
  refine ⟨_, hrun, ?_, toNat_add_ofNat_of_le hk, rfl, he, rfl, rfl, rfl, rfl, rfl, rfl, rfl, rfl, rfl, rfl⟩
  rw [← hn]
  rfl

/-- Settles O50: with no octet to move, completion is due right after the acceptance. -/
theorem pureFramerOperationsCompleteWithoutStreams : Obligations.PureFramerOperationsCompleteWithoutStreams := by
  intro s i prog later hi hb hp hs
  have hd : decodeCommand (encode i) = .ok i ∧ BitVec.ofNat 3 (octets i) = 0 := by fin_cases hi <;> exact ⟨rfl, rfl⟩
  obtain ⟨hd, hn⟩ := hd
  have hop := ((decodeCommand_ok_iff _ _).1 hd).2
  have hdue : Completes (accepted i prog s) := ⟨rfl, hn.symm, nextTurn_cons (congrArg List.tail hs)⟩
  have hrun := (runs_accept hd hb hp hs 1).trans (runs_succ (step_completion hdue hop) 0)
  obtain ⟨-, hreport, hrest⟩ :=
    completion_of_accepted hop (s := takeTurn .block (accepted i prog s)) (st := s.status) rfl
  obtain ⟨hbusy, hdone, hterr, hill⟩ := report_eq_iff.1 hreport
  have hword : Reports i (takeTurn .block (accepted i prog s))
      (if i = .buildHdr then hdr (s.dataIn.extractLsb' 0 8) else s.dataIn) := by
    fin_cases hi
    · exact .inl ⟨by decide, rfl⟩
    · exact .inr ⟨rfl, rfl⟩
  have hresult : (completion i (takeTurn .block (accepted i prog s))).result =
      if i = .buildHdr then hdr (s.dataIn.extractLsb' 0 8) else s.result := by fin_cases hi <;> rfl
  have hsched : (accepted i prog s).schedule.tail = later := congrArg (·.tail.tail) hs
  obtain ⟨hdata, -, -, -, -, -, -, hkept, hprog, htx, hrx, -⟩ :=
    completion_keeps i (takeTurn .block (accepted i prog s))
  exact ⟨_, hrun, hresult, flagsOf_completed (completion_status_reports hword), hdata, htx, hrx, hprog,
    hkept.trans hsched, hbusy, hdone, hterr, hill, fun j h14 => hrest j (by omega) (by omega)⟩

end Sys2Proof.Proofs

/-! SUPPORT for the statements about host programs: the lines of one operation as a run, programs of sending lines, and
single reads followed by a read of RESULT. -/

namespace Sys2Proof.Machine

open Sys2Proof.Safety

/-! ### The lines of one operation -/

/-- What sending operation `i` sends with `v` in DATA_IN (40_codec R91). -/
def sentWord (i : Instr) (v : Word) : Word := if i = .sendHdr then hdr (v.extractLsb' 0 8) else v

/-- The state after the lines of operation `i`: DATA_IN written, the operation run, and STATUS read once. -/
def operated (i : Instr) (v : Word) (prog : List HostLine) (later : List Turn) (s : State) : State :=
  regRead .status (issued prog (transmitted i (.wait :: prog) (.host :: later)
    (writeDataIn v (issued (.write 0x00 32 (encode i) :: .wait :: prog) s))))

/-- A poll of an idle block is one read of STATUS (30_encoding R81). -/
theorem pollStatus_of_idle {s : State} (hb : s.busy = false) : pollStatus s = regRead .status s := by
  simp [pollStatus, hb]

/-- The lines of a sending operation, run from an idle block with a sink that is always ready. -/
theorem runs_operated {s : State} {i : Instr} {v : Word} {prog : List HostLine} {later : List Turn}
    (hi : i ∈ [.wrU8, .wrU16, .wrU32, .sendHdr]) (hb : s.busy = false) (hp : s.program = linesOf i v ++ prog)
    (hs : s.schedule = operationTurns (octets i) ++ later) :
    runs (octets i + 4) s = .next (operated i v prog later s) := by
  have hwrite : AboutToWrite 0x04 v (.write 0x00 32 (encode i) :: .wait :: prog) s := .inl ⟨hp, nextTurn_cons hs⟩
  have hturns : s.schedule.tail = .host :: (readySink (octets i) ++ .block :: .host :: later) := by
    simp [hs, operationTurns]
  have hrun := runs_transmitted (s := writeDataIn v (issued (.write 0x00 32 (encode i) :: .wait :: prog) s)) hi hb rfl
    hturns
  obtain ⟨-, -, -, hprog, hsched⟩ := transmitted_keeps i (.wait :: prog) (.host :: later)
    (writeDataIn v (issued (.write 0x00 32 (encode i) :: .wait :: prog) s))
  have hpoll := step_wait ⟨hprog, nextTurn_cons hsched⟩
  rw [pollStatus_of_idle (by exact transmitted_busy (encode_txOp hi).1 ..)] at hpoll
  rw [show octets i + 4 = octets i + 2 + 1 + 1 by omega, runs_succ (step_write hwrite)]
  exact (runs_add hrun 1).trans (runs_succ hpoll 0)

/-- After the lines of a sending operation its octets are on the wire and nothing has been taken. -/
theorem operated_streams {i : Instr} (hi : i ∈ [.wrU8, .wrU16, .wrU32, .sendHdr]) (v : Word) (prog : List HostLine)
    (later : List Turn) (s : State) :
    (operated i v prog later s).txWire = s.txWire ++ octetsOf (octets i) (sentWord i v) ∧
      (operated i v prog later s).rxTaken = s.rxTaken := by
  constructor
  · exact (transmitted_txWire ..).trans (congrArg (s.txWire ++ octetsOf (octets i) ·) (txWord_accepted hi ..))
  · exact (transmitted_keeps i _ _ _).2.1

/-- After the lines of a sending operation the rest of the program and of the schedule is left, and the last value read
is STATUS. -/
theorem operated_rest (i : Instr) (v : Word) (prog : List HostLine) (later : List Turn) (s : State) :
    (operated i v prog later s).program = prog ∧ (operated i v prog later s).schedule = later ∧
      (operated i v prog later s).dataIn = v ∧
      (operated i v prog later s).reads = s.reads ++ [(operated i v prog later s).status] := by
  obtain ⟨hdata, -, hreads, -, hsched⟩ := transmitted_keeps i (.wait :: prog) (.host :: later)
    (writeDataIn v (issued (.write 0x00 32 (encode i) :: .wait :: prog) s))
  exact ⟨rfl, congrArg List.tail hsched, hdata, congrArg (· ++ [_]) hreads⟩

/-- After the lines of a sending operation the block is idle. -/
theorem operated_busy {i : Instr} (hi : i ∈ [.wrU8, .wrU16, .wrU32, .sendHdr]) (v : Word) (prog : List HostLine)
    (later : List Turn) (s : State) : (operated i v prog later s).busy = false :=
  transmitted_busy (encode_txOp hi).1 ..

/-! ### Programs of sending lines -/

/-- From every idle block, with any program and any turns after them, the lines run in exactly these turns, put exactly
these octets on the wire, take none, and leave the block idle. -/
def Sends (lines : List HostLine) (turns : List Turn) (bs : List Octet) : Prop :=
  ∀ (s : State) (prog : List HostLine) (later : List Turn), s.busy = false → s.program = lines ++ prog →
    s.schedule = turns ++ later →
    ∃ t, runs turns.length s = .next t ∧ t.txWire = s.txWire ++ bs ∧ t.rxTaken = s.rxTaken ∧ t.busy = false ∧
      t.program = prog ∧ t.schedule = later

/-- No line sends nothing. -/
theorem Sends.nil : Sends [] [] [] :=
  fun s _ _ hb hp hs => ⟨s, rfl, (List.append_nil _).symm, rfl, hb, hp, hs⟩

/-- Lines after lines send their octets after the others'. -/
theorem Sends.append {ls ms : List HostLine} {ts us : List Turn} {as bs : List Octet} (hl : Sends ls ts as)
    (hm : Sends ms us bs) : Sends (ls ++ ms) (ts ++ us) (as ++ bs) := by
  intro s prog later hb hp hs
  obtain ⟨t, hrun, htx, hrx, hbt, hpt, hst⟩ := hl s (ms ++ prog) (us ++ later) hb (by rw [hp, List.append_assoc])
    (by rw [hs, List.append_assoc])
  obtain ⟨u, hrun', htx', hrx', hbu, hpu, hsu⟩ := hm t prog later hbt hpt hst
  refine ⟨u, ?_, ?_, hrx'.trans hrx, hbu, hpu, hsu⟩
  · rw [List.length_append, runs_add hrun, hrun']
  · rw [htx', htx, List.append_assoc]

/-- The lines of a sending operation send what it sends. -/
theorem sends_linesOf {i : Instr} (hi : i ∈ [.wrU8, .wrU16, .wrU32, .sendHdr]) (v : Word) :
    Sends (linesOf i v) (operationTurns (octets i)) (octetsOf (octets i) (sentWord i v)) := by
  intro s prog later hb hp hs
  have hlen : (operationTurns (octets i)).length = octets i + 4 := by simp [operationTurns, readySink]
  obtain ⟨htx, hrx⟩ := operated_streams hi v prog later s
  obtain ⟨hprog, hsched, -, -⟩ := operated_rest i v prog later s
  exact ⟨_, hlen ▸ runs_operated hi hb hp hs, htx, hrx, operated_busy hi v prog later s, hprog, hsched⟩

/-- The wire opcode of an immediate is its low octet (30_encoding R73). -/
theorem extractLsb'_ofNat_low (n : Nat) : (BitVec.ofNat 32 n).extractLsb' 0 8 = BitVec.ofNat 8 n := by
  apply BitVec.eq_of_toNat_eq
  rw [BitVec.extractLsb'_toNat, BitVec.toNat_ofNat, BitVec.toNat_ofNat, Nat.shiftRight_zero]
  exact Nat.mod_mod_of_dvd n (by decide)

/-- `hdr.send` sends the header of its opcode. -/
theorem sends_hdrSend (op8 : Nat) :
    Sends (linesOf .sendHdr (BitVec.ofNat 32 op8)) (operationTurns 4) (octetsOf 4 (hdr (BitVec.ofNat 8 op8))) :=
  extractLsb'_ofNat_low op8 ▸ sends_linesOf (i := .sendHdr) (by decide) (BitVec.ofNat 32 op8)

/-- Each sending line sends its octets (30_encoding R82, R83). -/
theorem sends_line {l : AsmLine} (h : isSending l = true) : Sends (expansion l) (lineTurns l) (lineOctets l) := by
  have word (v : Word) : Sends (linesOf .wrU32 v) (operationTurns 4) (octetsOf 4 v) :=
    sends_linesOf (i := .wrU32) (by decide) v
  cases l with
  | wrU8 imm => exact sends_linesOf (i := .wrU8) (by decide) (BitVec.ofNat 32 imm)
  | wrU16 imm => exact sends_linesOf (i := .wrU16) (by decide) (BitVec.ofNat 32 imm)
  | wrU32 imm => exact word (BitVec.ofNat 32 imm)
  | hdrSend op8 => exact sends_hdrSend op8
  | desc addr32 len32 =>
    exact ((word (BitVec.ofNat 32 addr32)).append (word (BitVec.ofNat 32 len32))).append
      (sends_linesOf (i := .wrU8) (by decide) 0)
  | cmdStatus => exact sends_hdrSend 0x10
  | cmdGetVoltage => exact sends_hdrSend 0x13
  | cmdRtcGet => exact sends_hdrSend 0x14
  | cmdRtcSet => exact sends_hdrSend 0x15
  | cmdMemRead => exact sends_hdrSend 0x19
  | cmdMemWrite => exact sends_hdrSend 0x1A
  | cmdExtStatus => exact sends_hdrSend 0x40
  | w | r | wait | rdU8 | rdU16 | rdU32 | hdrBuild | hdrCheck | hdrCheckResult | status | clear => cases h

/-- A program of sending lines sends the octets of its lines in order. -/
theorem sends_program {ls : List AsmLine} (h : ∀ l ∈ ls, isSending l = true) :
    Sends (ls.flatMap expansion) (ls.flatMap lineTurns) (ls.flatMap lineOctets) := by
  induction ls with
  | nil => exact .nil
  | cons l ls ih =>
    simp only [List.flatMap_cons]
    exact (sends_line (h l List.mem_cons_self)).append (ih fun m hm => h m (List.mem_cons_of_mem l hm))

/-- A program of well-formed lines assembles to the expansions of its lines, in order (R84). -/
theorem assemble_of_wellFormed {ls : List AsmLine} (h : ∀ l ∈ ls, l.wellFormed = true) :
    assemble ls = .ok (ls.flatMap expansion) := by
  induction ls with
  | nil => rfl
  | cons l ls ih =>
    rw [assemble, assembleLine_of_wellFormed (h l List.mem_cons_self),
      ih fun m hm => h m (List.mem_cons_of_mem l hm), List.flatMap_cons]

/-! ### The request programs -/

/-- One octet as an immediate sends that octet. -/
theorem octetsOf_one (b : Octet) : octetsOf 1 (BitVec.ofNat 32 b.toNat) = [b] := by
  calc octetsOf 1 (BitVec.ofNat 32 b.toNat)
    _ = [(BitVec.ofNat 32 b.toNat).extractLsb' 0 8] := rfl
    _ = [b] := by rw [extractLsb'_ofNat_low, BitVec.ofNat_toNat, BitVec.setWidth_eq]

/-- The lines of a payload are well-formed sending lines, and their octets are the payload (40_codec R103). -/
theorem payloadLines_spec (bytes : List Octet) :
    (∀ l ∈ payloadLines bytes, l.wellFormed = true ∧ isSending l = true) ∧
      (payloadLines bytes).flatMap lineOctets = bytes := by
  constructor
  · intro l hl
    obtain ⟨b, -, rfl⟩ := List.mem_map.1 hl
    exact ⟨decide_eq_true b.isLt, rfl⟩
  · rw [payloadLines, List.flatMap_map]
    induction bytes with
    | nil => rfl
    | cons b bytes ih =>
      rw [List.flatMap_cons, ih, lineOctets, octetsOf_one, List.singleton_append]

/-- The program of a write-only command is of well-formed sending lines, and their octets are its request
(42_wire_commands R136, R138, R140). -/
theorem commandProgram_spec {c : WireCommand}
    (h : (∃ f0 f1 f2 f3 f4 f5, c = .rtcSet f0 f1 f2 f3 f4 f5) ∨
      ∃ address bytes, c = .memWrite address bytes ∧ bytes.length < 2 ^ 32) :
    (∀ l ∈ commandProgram c, l.wellFormed = true ∧ isSending l = true) ∧
      (commandProgram c).flatMap lineOctets = requestOctets c := by
  obtain ⟨f0, f1, f2, f3, f4, f5, rfl⟩ | ⟨address, bytes, rfl, hlen⟩ := h
  · obtain ⟨hlines, hoctets⟩ := payloadLines_spec [f0, f1, f2, f3, f4, f5]
    constructor
    · exact List.forall_mem_cons.2 ⟨⟨rfl, rfl⟩, hlines⟩
    · have hheader : octetsOf 4 (hdr 0x15) = lineOctets .cmdRtcSet := rfl
      rw [commandProgram, List.flatMap_cons, hoctets, ← hheader]
      rfl
  · obtain ⟨hlines, hoctets⟩ := payloadLines_spec bytes
    constructor
    · have hdesc : (AsmLine.desc address.toNat bytes.length).wellFormed = true := by
        rw [AsmLine.wellFormed, decide_eq_true address.isLt, decide_eq_true hlen, Bool.and_self]
      exact List.forall_mem_cons.2 ⟨⟨rfl, rfl⟩, List.forall_mem_cons.2 ⟨⟨hdesc, rfl⟩, hlines⟩⟩
    · have hheader : octetsOf 4 (hdr 0x1A) = lineOctets .cmdMemWrite := rfl
      have hdesc : lineOctets (.desc address.toNat bytes.length) =
          descriptorOctets address (BitVec.ofNat 32 bytes.length) := by
        rw [lineOctets, BitVec.ofNat_toNat, BitVec.setWidth_eq]
        rfl
      rw [commandProgram, List.flatMap_cons, List.flatMap_cons, hoctets, hdesc, ← hheader]
      rfl

end Sys2Proof.Machine

/-! PROOFS. The programs of sending lines. -/

namespace Sys2Proof.Proofs

open Sys2Proof Sys2Proof.Machine Sys2Proof.Safety

/-- Settles O53: each line sends its octets, and lines after lines send theirs after the others'. -/
theorem sendingProgramsReachTheWireInOrder : Obligations.SendingProgramsReachTheWireInOrder :=
  fun _ s prog later h hb hp hs => sends_program (fun l hl => (h l hl).2) s prog later hb hp hs

/-- Settles O54: the command's program is a sending program whose octets are the request. -/
theorem writeOnlyCommandsSendTheirRequest : Obligations.WriteOnlyCommandsSendTheirRequest := by
  intro c s prog later hc hb
  obtain ⟨hlines, hoctets⟩ := commandProgram_spec hc
  refine ⟨_, assemble_of_wellFormed fun l hl => (hlines l hl).1, fun hp hs => ?_⟩
  obtain ⟨t, hrun, htx, hrx, -, hprog, -⟩ := sends_program (fun l hl => (hlines l hl).2) s prog later hb hp hs
  exact ⟨t, hrun, hoctets ▸ htx, hrx, hprog⟩

end Sys2Proof.Proofs

/-! SUPPORT for the statements that compare runs: a header command line and its expansion, wide and narrow writes, and
wide and narrow reads. -/

namespace Sys2Proof.Machine

open Sys2Proof.Safety

/-! ### A header command line -/

/-- Runs of any machine from states with the same first step are the same. -/
theorem core_run_congr (M : Host.Core) {s t : M.State} (h : M.step s = M.step t) (k : Nat) :
    M.run (k + 1) s = M.run (k + 1) t := by
  simp only [Host.Core.run, h]

/-- A header command line runs as the lines of `hdr.send` in its place (30_encoding R83; log 12). -/
theorem runs_headerLine {s : State} {op : Octet} {i : Instr} {prog : List HostLine} {later : List Turn}
    (hop : decodeOpcode op = .ok i) (hb : s.busy = false) (hp : s.program = .wireHeader (encode i) :: prog)
    (hs : s.schedule = operationTurns 4 ++ later) :
    runs 8 s = .next (operated .sendHdr (op.setWidth 32) prog later
      { s with program := linesOf .sendHdr (op.setWidth 32) ++ prog }) :=
  (core_run_congr core (step_headerLine_eq hop ⟨hp, nextTurn_cons hs⟩) 7).trans
    (runs_operated (i := .sendHdr) (by decide) hb rfl hs)

/-- The header flags are bits of STATUS alone. -/
theorem flagsOf_congr {s t : State} (h : s.status = t.status) : flagsOf s = flagsOf t := by
  simp only [flagsOf, State.hsent, State.hpcpl, State.hccpl, State.hopk, State.hwf, State.hvalid, h]

/-- `hdr.send`, run, reports DONE alone, with the header in RESULT and its flags in STATUS (41_framer R113). -/
theorem operated_sendHdr (v : Word) (prog : List HostLine) (later : List Turn) (s : State) :
    (operated .sendHdr v prog later s).result = hdr (v.extractLsb' 0 8) ∧
      flagsOf (operated .sendHdr v prog later s) = headerFlags (hdr (v.extractLsb' 0 8)) ∧
      (operated .sendHdr v prog later s).doneBit = true ∧ (operated .sendHdr v prog later s).terr = false ∧
      (operated .sendHdr v prog later s).ill = false := by
  have hstatus : (operated .sendHdr v prog later s).status = (transmitted .sendHdr (.wait :: prog) (.host :: later)
      (writeDataIn v (issued (.write 0x00 32 (encode .sendHdr) :: .wait :: prog) s))).status := rfl
  obtain ⟨-, hreport, -⟩ := completion_of_accepted (i := .sendHdr) (c := 9) rfl
    (s := sent (octets .sendHdr) .block (.host :: later) (accepted .sendHdr (.wait :: prog)
      (writeDataIn v (issued (.write 0x00 32 (encode .sendHdr) :: .wait :: prog) s)))) (st := s.status) rfl
  obtain ⟨-, hbits⟩ := report_eq_iff.1 ((congrArg reportIn hstatus).trans hreport)
  exact ⟨rfl, (flagsOf_congr hstatus).trans (transmitted_sendHdr_flags _ _ _), hbits⟩

/-- The octets of a command's header on the wire (30_encoding R75). -/
theorem octetsOf_hdr (op : Octet) : octetsOf 4 (hdr op) = [0x2B#8, 0xD4#8, op, ~~~op] := by
  obtain ⟨h0, h1, h2, h3⟩ := headerW_wordOfWire sentinel sentinelCpl op (not8 op)
  calc octetsOf 4 (hdr op)
    _ = [headerW0 (hdr op), headerW1 (hdr op), headerW2 (hdr op), headerW3 (hdr op)] := rfl
    _ = [0x2B#8, 0xD4#8, op, ~~~op] := by
      rw [hdr, h0, h1, h2, h3, not8_eq_not]
      rfl

/-- With all six flags 1, bits 8 to 13 of STATUS are 1 (10_state R31). -/
theorem getLsbD_of_flagsOf {s : State} (h : flagsOf s = ⟨true, true, true, true, true, true⟩) {j : Nat} (h8 : 8 ≤ j)
    (h13 : j ≤ 13) : s.status.getLsbD j = true := by
  obtain ⟨hsent, hpcpl, hccpl, hopk, hwf, hvalid⟩ := HeaderFlags.mk.inj h
  interval_cases j <;> assumption

/-- The low octet of a zero-extended octet is the octet. -/
theorem extractLsb'_setWidth_octet (b : Octet) : (b.setWidth 32).extractLsb' 0 8 = b := by
  rw [← BitVec.ofNat_toNat, extractLsb'_ofNat_low, BitVec.ofNat_toNat, BitVec.setWidth_eq]

/-! ### Wide and narrow writes -/

/-- The four octets of a word, as slices (20_memory R53). -/
theorem octetsOf_four (v : Word) :
    octetsOf 4 v = [v.extractLsb' 24 8, v.extractLsb' 16 8, v.extractLsb' 8 8, v.extractLsb' 0 8] := rfl

/-- The four octets of a word, each zero-extended. -/
theorem octetsOf_four_map (v : Word) :
    (octetsOf 4 v).map (·.setWidth 32) =
      [(v.extractLsb' 24 8).setWidth 32, (v.extractLsb' 16 8).setWidth 32, (v.extractLsb' 8 8).setWidth 32,
        (v.extractLsb' 0 8).setWidth 32] := rfl

/-- The low two octets of a word, as slices. -/
theorem octetsOf_two (v : Word) : octetsOf 2 v = [v.extractLsb' 8 8, v.extractLsb' 0 8] := rfl

/-- The octets of a word's low half are its low two octets. -/
theorem octetsOf_two_low (v : Word) : octetsOf 2 (BitVec.ofNat 32 (v.extractLsb' 0 16).toNat) = octetsOf 2 v := by
  have hslice {start : Nat} (h : start + 8 ≤ 16) :
      (BitVec.ofNat 32 (v.extractLsb' 0 16).toNat).extractLsb' start 8 = v.extractLsb' start 8 := by
    apply BitVec.eq_of_getLsbD_eq
    intro j hj
    rw [BitVec.ofNat_toNat]
    simp [hj, show start + j < 32 by omega, show start + j < 16 by omega]
  rw [octetsOf_two, octetsOf_two, hslice (by decide), hslice (by decide)]

/-- A wider write and the narrower ones are sending lines with the same octets. -/
theorem wide_narrow_octets {v : Word} {wide : AsmLine} {narrow : List AsmLine}
    (h : (wide, narrow) ∈
      [(AsmLine.wrU32 v.toNat, [AsmLine.wrU8 (v.extractLsb' 24 8).toNat, .wrU8 (v.extractLsb' 16 8).toNat,
          .wrU8 (v.extractLsb' 8 8).toNat, .wrU8 (v.extractLsb' 0 8).toNat]),
        (.wrU16 (v.extractLsb' 0 16).toNat, [.wrU8 (v.extractLsb' 8 8).toNat, .wrU8 (v.extractLsb' 0 8).toNat])]) :
    isSending wide = true ∧ (∀ l ∈ narrow, isSending l = true) ∧ lineOctets wide = octetsOf narrow.length v ∧
      narrow.flatMap lineOctets = octetsOf narrow.length v := by
  simp only [List.mem_cons, Prod.mk.injEq, List.not_mem_nil, or_false] at h
  obtain ⟨rfl, rfl⟩ | ⟨rfl, rfl⟩ := h
  · refine ⟨rfl, by simp [isSending], ?_, ?_⟩
    · rw [lineOctets, BitVec.ofNat_toNat, BitVec.setWidth_eq]
      rfl
    · simp only [List.flatMap_cons, List.flatMap_nil, lineOctets, octetsOf_one]
      rfl
  · refine ⟨rfl, by simp [isSending], octetsOf_two_low v, ?_⟩
    simp only [List.flatMap_cons, List.flatMap_nil, lineOctets, octetsOf_one]
    rfl

/-! ### Wide and narrow reads -/

/-- The value of one octet is the octet, zero-extended (40_codec R95). -/
theorem valueOf_one (b : Octet) : valueOf [b] = b.setWidth 32 := by
  have hb : b.toNat < 256 := b.isLt
  apply BitVec.eq_of_toNat_eq
  rw [toNat_valueOf (bs := [b]) (by simp), BitVec.toNat_setWidth, Nat.mod_eq_of_lt (by omega)]
  simp [bigEndian]

/-- A read and a read of RESULT, run from an idle block with a source that supplies the octets (40_codec R95 to R97). -/
theorem runs_read_result {s : State} {i : Instr} {bs : List Octet} {prog : List HostLine} {later : List Turn}
    (hi : i ∈ [.rdU8, .rdU16, .rdU32]) (hlen : bs.length = octets i) (hb : s.busy = false)
    (hp : s.program = .write 0x00 32 (encode i) :: .read 0x08 32 :: prog)
    (hs : s.schedule = .host :: (supplyingSource bs ++ .block :: .host :: later)) :
    ∃ t, runs (octets i + 3) s = .next t ∧ t.busy = false ∧ t.program = prog ∧ t.schedule = later ∧
      t.rxTaken = s.rxTaken ++ bs ∧ t.txWire = s.txWire ∧ t.reads = s.reads ++ [valueOf bs] := by
  obtain ⟨-, htx, hrx, hreads, hprog, hsched⟩ := readOut_keeps i bs (.read 0x08 32 :: prog) (.host :: later) s
  have hresult := readOut_result hi bs (.read 0x08 32 :: prog) (.host :: later) s
  have hread := step_read (r := .result) ⟨hprog, nextTurn_cons hsched⟩ rfl
  refine ⟨_, (runs_add (runs_readOut hi hlen hb hp hs) 1).trans (runs_succ hread 0), readOut_busy (encode_rxOp hi).1 ..,
    rfl, congrArg List.tail hsched, hrx, htx, ?_⟩
  rw [regRead_reads, ← hresult, ← hreads]
  rfl

/-- The lines of RD_U8 and a read of RESULT. -/
def narrowReadLines : List HostLine := [.write 0x00 32 (encode .rdU8), .read 0x08 32]

/-- The turns in which RD_U8 takes one octet and the host reads RESULT. -/
def narrowReadTurns (b : Octet) : List Turn := .host :: (supplyingSource [b] ++ [.block, .host])

/-- RD_U8s one after another, each with a read of RESULT, return the octets supplied one by one (20_memory R55). -/
theorem runs_narrowReads {s : State} {bs : List Octet} {prog : List HostLine} {later : List Turn} (hb : s.busy = false)
    (hp : s.program = bs.flatMap (fun _ => narrowReadLines) ++ prog)
    (hs : s.schedule = bs.flatMap narrowReadTurns ++ later) :
    ∃ t, runs (4 * bs.length) s = .next t ∧ t.rxTaken = s.rxTaken ++ bs ∧ t.txWire = s.txWire ∧
      t.reads = s.reads ++ bs.map (·.setWidth 32) := by
  induction bs generalizing s with
  | nil => exact ⟨s, rfl, (List.append_nil _).symm, rfl, (List.append_nil _).symm⟩
  | cons b bs ih =>
    have hp' : s.program = .write 0x00 32 (encode .rdU8) :: .read 0x08 32 ::
        (bs.flatMap (fun _ => narrowReadLines) ++ prog) := hp
    have hs' : s.schedule = .host :: (supplyingSource [b] ++ .block :: .host ::
        (bs.flatMap narrowReadTurns ++ later)) := hs
    obtain ⟨t, hrun, hbt, hpt, hst, hrx, htx, hreads⟩ := runs_read_result (by decide) rfl hb hp' hs'
    obtain ⟨u, hrun', hrx', htx', hreads'⟩ := ih hbt hpt hst
    refine ⟨u, ?_, ?_, htx'.trans htx, ?_⟩
    · rw [List.length_cons, show 4 * (bs.length + 1) = 4 + 4 * bs.length by omega]
      exact (runs_add hrun _).trans hrun'
    · rw [hrx', hrx, List.append_assoc, List.singleton_append]
    · rw [hreads', hreads, valueOf_one, List.append_assoc, List.map_cons, List.singleton_append]

end Sys2Proof.Machine

/-! PROOFS. The runs that are compared. -/

namespace Sys2Proof.Proofs

open Sys2Proof Sys2Proof.Machine Sys2Proof.Safety

/-- Settles O51: the run is that of `hdr.send` with the command's opcode, which is in OPSET. -/
theorem headerCommandRunSendsItsHeader : Obligations.HeaderCommandRunSendsItsHeader := by
  intro s i op prog later hrow hb hp hs
  have hop : decodeOpcode op = .ok i := by
    fin_cases hrow <;> rfl
  obtain ⟨htx, hrx⟩ := operated_streams (i := .sendHdr) (by decide) (op.setWidth 32) prog later
    { s with program := linesOf .sendHdr (op.setWidth 32) ++ prog }
  obtain ⟨hprog, hsched, hdata, hreads⟩ := operated_rest .sendHdr (op.setWidth 32) prog later
    { s with program := linesOf .sendHdr (op.setWidth 32) ++ prog }
  obtain ⟨hresult, hflags, hdone, hterr, hill⟩ := operated_sendHdr (op.setWidth 32) prog later
    { s with program := linesOf .sendHdr (op.setWidth 32) ++ prog }
  rw [extractLsb'_setWidth_octet] at hresult hflags
  rw [headerFlags_hdr, decide_eq_true ((decodeOpcode_ok_iff op i).1 hop).1] at hflags
  refine ⟨_, runs_headerLine hop hb hp hs, ?_, hresult.trans (decodeOpcode_encode hop).symm, hdata, hrx, hprog, hsched,
    operated_busy (by decide) .., hdone, hterr, hill, fun j h8 h13 => getLsbD_of_flagsOf hflags h8 h13, hreads⟩
  rw [htx, sentWord, if_pos rfl, extractLsb'_setWidth_octet]
  exact congrArg (s.txWire ++ ·) (octetsOf_hdr op)

/-- Settles O55: the wide line and the narrow lines are sending lines of the same octets. -/
theorem wideWritesEqualNarrowWrites : Obligations.WideWritesEqualNarrowWrites := by
  refine ⟨fun v => ⟨?_, octetsOf_succ 1 v, octetsOf_four v⟩, fun s v wide narrow prog later hpair hb => ?_⟩
  · rw [octetsOf_succ 3, octetsOf_succ 2, octetsOf_succ 1, ← BitVec.shiftRight_add, ← BitVec.shiftRight_add]
    rfl
  · obtain ⟨hwide, hnarrow, hoct, hocts⟩ := wide_narrow_octets hpair
    obtain ⟨t, hrun, htx, hrx, hbt, -⟩ := sends_line hwide
      { s with program := expansion wide ++ prog, schedule := lineTurns wide ++ later } prog later hb rfl rfl
    obtain ⟨u, hrun', hux, hur, hbu, -⟩ := sends_program hnarrow
      { s with program := narrow.flatMap expansion ++ prog, schedule := narrow.flatMap lineTurns ++ later }
      prog later hb rfl rfl
    rw [hoct] at htx
    rw [hocts] at hux
    exact ⟨t, u, hrun, hrun', htx, hux.trans htx.symm, hrx, hur, hbt, hbu⟩

/-- Settles O56: the octets of the wide read's value are those it takes, and the narrow reads return the octets they
take one by one. -/
theorem wideReadsTakeWhatNarrowReadsTake : Obligations.WideReadsTakeWhatNarrowReadsTake := by
  intro s b0 b1 b2 b3 prog later hb narrowLines narrowTurns
  have hwide := runs_readOut (i := .rdU32) (bs := [b0, b1, b2, b3]) (prog := prog) (later := later) (s := { s with
    program := .write 0x00 32 (encode .rdU32) :: prog
    schedule := .host :: (supplyingSource [b0, b1, b2, b3] ++ .block :: later) }) (by decide) rfl hb rfl rfl
  obtain ⟨-, htx, hrx, hreads, -, -⟩ := readOut_keeps .rdU32 [b0, b1, b2, b3] prog later { s with
    program := .write 0x00 32 (encode .rdU32) :: prog
    schedule := .host :: (supplyingSource [b0, b1, b2, b3] ++ .block :: later) }
  obtain ⟨u, hnarrow, hur, hux, hureads⟩ := runs_narrowReads (bs := [b0, b1, b2, b3]) (prog := prog) (later := later)
    (s := { s with
      program := narrowLines ++ narrowLines ++ narrowLines ++ narrowLines ++ prog
      schedule := narrowTurns b0 ++ narrowTurns b1 ++ narrowTurns b2 ++ narrowTurns b3 ++ later }) hb rfl rfl
  have hvalue : octetsOf 4 (valueOf [b0, b1, b2, b3]) = [b0, b1, b2, b3] :=
    octetsOf_valueOf (bs := [b0, b1, b2, b3]) le_rfl
  refine ⟨_, u, hwide, hnarrow, hrx, hur.trans hrx.symm, htx, hux, hreads, ?_⟩
  rw [readOut_result (by decide), hureads, ← octetsOf_four_map, hvalue]

end Sys2Proof.Proofs
